-- ==== Sys2Proof/Word.lean ====
section
/-! DEFINITION. The widths of the block's words (00_scope.md R8, R9; 30_encoding.md R51, R55). -/

namespace Sys2Proof

/-- One byte of the link (20_memory.md R44) or the `OP` and `CH` fields of a command (30_encoding.md R51). -/
abbrev Byte := BitVec 8

/-- A parameter value, a selector, a ramp time (00_scope.md R8, R9). -/
abbrev U16 := BitVec 16

/-- A time, a position, a period, a response (00_scope.md R8; 10_state.md R30). -/
abbrev U32 := BitVec 32

/-- A command word, format CMD64 (30_encoding.md R51). -/
abbrev CmdWord := BitVec 64

/-- A link packet as one 24-bit pattern, byte 0 most significant, format LINK3 (30_encoding.md R55). -/
abbrev PacketWord := BitVec 24

end Sys2Proof
end

