-- ==== Sys2Proof/Config.lean ====
section
/-! DEFINITION. The construction parameters of an instance (00_scope.md R6): constants of the instance,
chosen by its builder, changed by no operation. They are a record of plain data, so that every claim can
be made for every legal instance; `Params.default` is the default column of R6's table. -/

namespace Sys2Proof

/-- The synchronization role (00_scope.md R6; 43_synchronization.md R87). -/
inductive Role where
  | free
  | master
  | client
deriving DecidableEq, Repr

/-- The link transport (00_scope.md R6; 43_synchronization.md R87). -/
inductive Link where
  | pulse
  | msg
deriving DecidableEq, Repr

/-- The construction parameters, one field per row of the table of 00_scope.md R6. Which records are
instances of the block is `Params.legal` (R6's ranges and R7's constraints). -/
structure Params where
  /-- `NCH`, the number of channels -/
  nch : Nat
  /-- `ROLE` -/
  role : Role
  /-- `LINK` -/
  link : Link
  /-- `ABSMASK`: bit c set makes channel c an absolute channel -/
  absMask : U16
  /-- `SCHED_TICKS`: a scheduler pass also runs the tick -/
  schedTicks : Bool
  /-- `INIT_FREQ[c]` -/
  initFreq : List U16
  /-- `INIT_DUTY[c]` -/
  initDuty : List U16
  /-- `INIT_PHASE[c]` -/
  initPhase : List U16
  /-- `FREQ_MIN` -/
  freqMin : U16
  /-- `FREQ_MAX` -/
  freqMax : U16
  /-- `SYNCIVL`, microseconds -/
  syncIvl : U32
  /-- `LATCOMP`, microseconds -/
  latComp : U16
  /-- `TOLSH`, 0 to 7 -/
  tolSh : BitVec 3
  /-- `MISSMAX`, 1 to 15 -/
  missMax : BitVec 4
  /-- `HARDMUL`, 2 to 255 -/
  hardMul : Byte
  /-- `NUDGE` -/
  nudge : Bool
  /-- `ADOPT` -/
  adopt : Bool
  /-- `MARKER` -/
  marker : Byte
  /-- `NBUF`, the length of the interval ring buffer -/
  nbuf : Nat
deriving DecidableEq, Repr

/-- The default column of the table of 00_scope.md R6. -/
def Params.default : Params where
  nch := 4
  role := .free
  link := .pulse
  absMask := 0
  schedTicks := false
  initFreq := List.replicate 4 100
  initDuty := List.replicate 4 0
  initPhase := List.replicate 4 0
  freqMin := 1
  freqMax := 65535
  syncIvl := 1000000
  latComp := 0
  tolSh := 1
  missMax := 2
  hardMul := 10
  nudge := true
  adopt := true
  marker := 0xA5
  nbuf := 8

end Sys2Proof
end

