-- ==== Sys2Proof/Machine/Arith.lean ====
section
/-! DEFINITION. The arithmetic of 00_scope.md R10: exact natural numbers between reads and stores, `sub32`
for time differences, the linear interpolation of 44_sequencing.md R115. -/

namespace Sys2Proof.Machine

/-- Store an exact result in a 32-bit register. 40_timing_model.md R60 bounds every such result below 2^32
in every state the invariants of 10_state.md R32 hold in, so nothing is lost there. -/
def u32 (n : Nat) : U32 := BitVec.ofNat 32 n

/-- Store an exact result in a 16-bit register (40_timing_model.md R60, as for `u32`). -/
def u16 (n : Nat) : U16 := BitVec.ofNat 16 n

/-- `sub32(a, b) = (a - b) mod 2^32` (00_scope.md R10). -/
def sub32 (a b : U32) : U32 := a - b

/-- `|a - b|` (00_scope.md R10). -/
def absDiff (a b : Nat) : Nat := max a b - min a b

/-- `a mod b` for an integer `a` and `b > 0`: the r with `0 <= r < b` (00_scope.md R10). -/
def modNat (a : Int) (b : Nat) : Nat := (a % (b : Int)).toNat

/-- `interp(s, t, q, d)` (44_sequencing.md R115). -/
def interp (s t : U16) (q d : Nat) : U16 :=
  if s.toNat ≤ t.toNat then u16 (s.toNat + ((t.toNat - s.toNat) * q) / d)
  else u16 (s.toNat - ((s.toNat - t.toNat) * q) / d)

/-- `for c in 0 .. : x[c] <- f c x[c]` over a list whose first element has index `k` (00_scope.md R11:
loops run in ascending order). -/
def mapFrom {α : Type} (f : Nat → α → α) : Nat → List α → List α
  | _, [] => []
  | k, x :: xs => f k x :: mapFrom f (k + 1) xs

end Sys2Proof.Machine
end

