-- ==== Sys2Proof/Machine/Timing.lean ====
section
/-! DEFINITION. The Channel Timing Model (40_timing_model.md): the period of a frequency, the active window of
a period, duty and phase, and the duty-window comparator. -/

namespace Sys2Proof.Machine

/-- `period(f) = 10000000 div f` (40_timing_model.md R61). -/
def periodOf (f : U16) : U32 := u32 (10000000 / f.toNat)

/-- An active window: `START`, `END`, `WRAPS` (10_state.md R15). -/
structure Window where
  startUs : U32
  endUs : U32
  wraps : Bool
deriving DecidableEq, Repr

/-- The body of `recompute` (40_timing_model.md R62) as a function of `PERIOD`, `DUTY`, `PHASE`. -/
def windowOf (period : U32) (duty phase : U16) : Window :=
  let width := (period.toNat * duty.toNat) / 10000
  let start := (period.toNat * phase.toNat) / 10000
  let stop := start + width
  if period.toNat < stop then ⟨u32 start, u32 (stop - period.toNat), true⟩
  else ⟨u32 start, u32 stop, false⟩

/-- `isActive` (40_timing_model.md R63) as a function of the position and the window. -/
def activeAt (pos startUs endUs : U32) (wraps : Bool) : Bool :=
  if wraps then decide (startUs.toNat ≤ pos.toNat) || decide (pos.toNat < endUs.toNat)
  else decide (startUs.toNat ≤ pos.toNat) && decide (pos.toNat < endUs.toNat)

end Sys2Proof.Machine
end

