-- ==== Sys2Proof/Machine/Channel.lean ====
section
/-! DEFINITION. The registers of one channel (10_state.md R13 to R19) and their reset values (R36). -/

namespace Sys2Proof.Machine

/-- The parameter p of 10_state.md R19: F, D or P. -/
inductive Parameter where
  | freq
  | duty
  | phase
deriving DecidableEq, Repr

/-- A ramp record (10_state.md R19). -/
structure Ramp where
  /-- `RACT_p[c]` -/
  act : Bool
  /-- `RSTART_p[c]` -/
  start : U16
  /-- `RTARGET_p[c]` -/
  target : U16
  /-- `RT0_p[c]`, milliseconds -/
  t0 : U32
  /-- `RDELAY_p[c]`, milliseconds -/
  delay : U16
  /-- `RDUR_p[c]`, milliseconds -/
  dur : U16
deriving DecidableEq, Repr

/-- The reset value of a ramp record (10_state.md R36). -/
def Ramp.cleared : Ramp := ⟨false, 0, 0, 0, 0, 0⟩

/-- The registers of one channel. -/
structure Channel where
  /-- `FREQ[c]`, 0.1 Hz (10_state.md R13) -/
  freq : U16
  /-- `DUTY[c]`, 0.01 % (10_state.md R13) -/
  duty : U16
  /-- `PHASE[c]`, 1/10000 cycle (10_state.md R13) -/
  phase : U16
  /-- `PERIOD[c]`, microseconds (10_state.md R14) -/
  period : U32
  /-- `START[c]` (10_state.md R15) -/
  startUs : U32
  /-- `END[c]` (10_state.md R15) -/
  endUs : U32
  /-- `WRAPS[c]` (10_state.md R15) -/
  wraps : Bool
  /-- `POS[c]` (10_state.md R16) -/
  pos : U32
  /-- `OUT[c]`, the output latch and the pin (10_state.md R17) -/
  out : Bool
  /-- `PEND_FREQ[c]` (10_state.md R18) -/
  pendFreq : U16
  /-- `PEND_DUTY[c]` (10_state.md R18) -/
  pendDuty : U16
  /-- `PEND_PHASE[c]` (10_state.md R18) -/
  pendPhase : U16
  /-- `DIRTY_F[c]` (10_state.md R18) -/
  dirtyF : Bool
  /-- `DIRTY_D[c]` (10_state.md R18) -/
  dirtyD : Bool
  /-- `DIRTY_P[c]` (10_state.md R18) -/
  dirtyP : Bool
  /-- the frequency ramp (10_state.md R19) -/
  rampF : Ramp
  /-- the duty ramp (10_state.md R19) -/
  rampD : Ramp
  /-- the phase ramp (10_state.md R19) -/
  rampP : Ramp
deriving DecidableEq, Repr

/-- A channel right after reset with the given `INIT_FREQ`, `INIT_DUTY`, `INIT_PHASE` (10_state.md R36;
70_reset_and_hazards.md R136). -/
def Channel.atReset (f d q : U16) : Channel :=
  let w := windowOf (periodOf f) d q
  { freq := f, duty := d, phase := q, period := periodOf f
    startUs := w.startUs, endUs := w.endUs, wraps := w.wraps
    pos := 0, out := false
    pendFreq := 0, pendDuty := 0, pendPhase := 0
    dirtyF := false, dirtyD := false, dirtyP := false
    rampF := .cleared, rampD := .cleared, rampP := .cleared }

/-- What a channel index with no channel behind it reads as: every register 0. No state of an instance
has such an index below `NCH` (log entry 7). -/
def Channel.blank : Channel :=
  { freq := 0, duty := 0, phase := 0, period := 0, startUs := 0, endUs := 0, wraps := false
    pos := 0, out := false, pendFreq := 0, pendDuty := 0, pendPhase := 0
    dirtyF := false, dirtyD := false, dirtyP := false
    rampF := .cleared, rampD := .cleared, rampP := .cleared }

/-- All channels right after reset: channel c takes `INIT_FREQ[c]`, `INIT_DUTY[c]`, `INIT_PHASE[c]`. -/
def channelsAtReset (p : Params) : List Channel :=
  (List.range p.nch).map fun c =>
    Channel.atReset (p.initFreq.getD c 0) (p.initDuty.getD c 0) (p.initPhase.getD c 0)

end Sys2Proof.Machine
end

