-- ==== Sys2Proof/Machine/Event.lean ====
section
/-! DEFINITION. What enters and leaves the block (20_memory.md R41 to R43): events, the instants at which
they arrive at the ports (R40; 60_exceptions.md R124, R125), and output events. -/

namespace Sys2Proof.Machine

/-- An event that waits to be served (20_memory.md R41). RESET is no member: it is served at once and never
waits (60_exceptions.md R125). -/
inductive Event where
  /-- `CMD(w)` -/
  | cmd (w : CmdWord)
  /-- `TICK_IN` -/
  | tickIn
  /-- `SCHED_IN` -/
  | schedIn
  /-- `SYNC_EDGE` -/
  | syncEdge
  /-- `SYNC_BYTE(b)` -/
  | syncByte (b : Byte)
  /-- The three bytes of a LINK3 packet, byte 0 most significant, arriving at one instant: three `SYNC_BYTE`
  events served in a row. Not one of the kinds of R41: DESIGN CHOICE, safe (log entry 6). -/
  | packet (w : PacketWord)
deriving DecidableEq, Repr

/-- A waiting event with the time stamps it sampled on arrival (20_memory.md R43). -/
structure Stamped where
  ev : Event
  us : U32
  ms : U32
deriving DecidableEq, Repr

/-- One instant at the input ports of 20_memory.md R40: `TIME_US`, `TIME_MS`, and what arrives then. -/
structure Arrivals where
  us : U32
  ms : U32
  reset : Bool
  edge : Bool
  byte : Option Byte
  tick : Bool
  sched : Bool
  cmd : Option CmdWord
deriving DecidableEq, Repr

/-- What the environment does next (20_memory.md R41: it "chooses which event comes next and with which time
stamps"): an instant at the ports, or letting the oldest waiting event be served. DESIGN CHOICE, safe (log
entry 2). -/
inductive EnvMove where
  | arrive (a : Arrivals)
  | serve
deriving DecidableEq, Repr

/-- An output event (20_memory.md R42). -/
inductive Output where
  /-- `PinWrite(c, v)`: pin c driven to level v -/
  | pinWrite (c : Nat) (v : Bool)
  /-- `SyncPulse` -/
  | syncPulse
  /-- `SyncBytes(b0, b1, b2)`, b0 first -/
  | syncBytes (b0 b1 b2 : Byte)
  /-- `Resp(v)`: the answer to a GET -/
  | resp (v : U32)
deriving DecidableEq, Repr

end Sys2Proof.Machine
end

