-- ==== Sys2Proof/Machine/State.lean ====
section
/-! DEFINITION. The state of the block (10_state.md), plain data, with every register of R13 to R28; the
construction parameters it was built with (00_scope.md R6); the environment and the outputs (20_memory.md
R41, R42); the reset state (10_state.md R36). -/

namespace Sys2Proof.Machine

/-- The state of the message deframer, `RXST` (10_state.md R28): "3 never occurs". -/
inductive RxState where
  /-- 0, waiting for the marker byte -/
  | idle
  /-- 1, waiting for the high frequency byte -/
  | gotMarker
  /-- 2, waiting for the low frequency byte -/
  | gotHi
deriving DecidableEq, Repr

/-- The block with its construction parameters, and the model's own fields `nowUs`, `nowMs`, `waiting`,
`env`, `trace`. -/
structure State where
  /-- The construction parameters (00_scope.md R6; 10_state.md R35): no operation writes them.
  DESIGN CHOICE, safe (log entry 1). -/
  cfg : Params
  /-- the registers of channels 0 to NCH-1 (10_state.md R13 to R19) -/
  chans : List Channel
  /-- `RUN` (10_state.md R20) -/
  run : Bool
  /-- `LASTTICK`, microseconds (10_state.md R21) -/
  lastTick : U32
  /-- `REFTIME`, microseconds (10_state.md R22) -/
  refTime : U32
  /-- `LASTEVT`, microseconds (10_state.md R23) -/
  lastEvt : U32
  /-- `SYNCED` (10_state.md R24) -/
  synced : Bool
  /-- `BUF[0 .. NBUF-1]`, microseconds (10_state.md R25) -/
  buf : List U32
  /-- `HEAD`, an index of `BUF` (10_state.md R25) -/
  head : Nat
  /-- `AVG`, microseconds (10_state.md R26) -/
  avg : U32
  /-- `LASTEMIT`, microseconds (10_state.md R27) -/
  lastEmit : U32
  /-- `RXST` (10_state.md R28) -/
  rxst : RxState
  /-- `RXHI` (10_state.md R28) -/
  rxhi : Byte
  /-- MODEL: `now_us` of the event being served (20_memory.md R43; log entry 3) -/
  nowUs : U32
  /-- MODEL: `now_ms` of the event being served (20_memory.md R43; log entry 3) -/
  nowMs : U32
  /-- MODEL: the events that arrived and wait to be served, oldest first (20_memory.md R45; log entry 2) -/
  waiting : List Stamped
  /-- MODEL: what the environment does next (20_memory.md R41; log entry 2) -/
  env : List EnvMove
  /-- MODEL: the output events emitted so far, in order (20_memory.md R42; log entry 4) -/
  trace : List Output
deriving DecidableEq, Repr

/-- Why a step can fault: never. "There are no fatal errors" and "every command word, every byte on the
link, every time stamp has a defined result" (60_exceptions.md R122), so the type has no constructor. -/
inductive Fault where
deriving DecidableEq, Repr

/-- Why a step can be refused. -/
inductive Refusal where
  /-- Raised by an arm of `exec` whose instruction has no meaning yet (none is left); safe. -/
  | notModelled (mnemonic : String)
  /-- Raised by `step` alone, when the construction parameters break a range of 00_scope.md R6 or a constraint
  of R7: "an instance that breaks a constraint is outside the spec; a model refuses to build it"; safe. -/
  | illegalInstance
deriving DecidableEq, Repr

/-- Every register at its reset value for the instance `p` (10_state.md R36); the model's own fields empty or
zero (log entries 2, 3, 4). -/
def State.resetOf (p : Params) : State where
  cfg := p
  chans := channelsAtReset p
  run := false
  lastTick := 0
  refTime := 0
  lastEvt := 0
  synced := false
  buf := List.replicate p.nbuf p.syncIvl
  head := 0
  avg := p.syncIvl
  lastEmit := 0
  rxst := .idle
  rxhi := 0
  nowUs := 0
  nowMs := 0
  waiting := []
  env := []
  trace := []

/-- The machine right after reset, as the instance of the default parameters (00_scope.md R6; 10_state.md R36). -/
def State.reset : State := State.resetOf Params.default

end Sys2Proof.Machine
end

