-- ==== Sys2Proof/Machine/Operands.lean ====
section
/-! DEFINITION. The operand checks and operand values of the commands: the channel index (42_parameter_control.md
R83), the frequency range (R77), the clamps (R81, R82), the roles (R76), and the registers that a channel
index and a parameter name. -/

namespace Sys2Proof.Machine

/-- `ABSMASK[c]`: channel c is an absolute channel (00_scope.md R6). -/
def isAbs (p : Params) (c : Nat) : Bool := p.absMask.getLsbD c

/-- `ch >= NCH`: the index names no channel (42_parameter_control.md R83). -/
def badChannel (p : Params) (ch : Byte) : Bool := decide (p.nch ≤ ch.toNat)

/-- `v < FREQ_MIN or v > FREQ_MAX` (42_parameter_control.md R77). -/
def badFreq (p : Params) (v : U16) : Bool :=
  decide (v.toNat < p.freqMin.toNat) || decide (p.freqMax.toNat < v.toNat)

/-- `min(v, 10000)` (42_parameter_control.md R81). -/
def clampDuty (v : U16) : U16 := u16 (min v.toNat 10000)

/-- `min(v, 9999)` (42_parameter_control.md R82). -/
def clampPhase (v : U16) : U16 := u16 (min v.toNat 9999)

/-- The frequency commands are no-ops on a client (42_parameter_control.md R76). -/
def freqNoOp (p : Params) : Bool := decide (p.role = .client)

/-- The phase commands are no-ops on a master (42_parameter_control.md R76). -/
def phaseNoOp (p : Params) : Bool := decide (p.role = .master)

/-- The registers of channel `c` (`X[c]`, 00_scope.md R11). -/
def State.chan (s : State) (c : Nat) : Channel := s.chans.getD c Channel.blank

/-- The current value of a parameter: `FREQ[c]`, `DUTY[c]` or `PHASE[c]` (44_sequencing.md R109, `cur`). -/
def Channel.value (c : Channel) : Parameter → U16
  | .freq => c.freq
  | .duty => c.duty
  | .phase => c.phase

/-- The ramp record of a parameter (10_state.md R19). -/
def Channel.ramp (c : Channel) : Parameter → Ramp
  | .freq => c.rampF
  | .duty => c.rampD
  | .phase => c.rampP

/-- Write the ramp record of a parameter (10_state.md R19). -/
def Channel.setRamp (c : Channel) (r : Ramp) : Parameter → Channel
  | .freq => { c with rampF := r }
  | .duty => { c with rampD := r }
  | .phase => { c with rampP := r }

end Sys2Proof.Machine
end

