-- ==== Sys2Proof/Machine/Flags.lean ====
section
/-! DEFINITION. The one-bit state elements (10_state.md R29): how `RACT` is cleared, and the words in which GET
returns flags and small fields (R30, R31). `WRAPS` is computed by `windowOf` (Timing.lean), `OUT` by the tick
(PhaseAccumulator.lean), `DIRTY` by the buffered setters and `applyPending` (Sequencing.lean). -/

namespace Sys2Proof.Machine

/-- `RACT_p[c] <- 0`, the rest of the record kept (44_sequencing.md R116; 10_state.md R19). -/
def clearRact (p : Parameter) (c : Channel) : Channel :=
  c.setRamp { c.ramp p with act := false } p

/-- One bit of a packed word. -/
def bit (b : Bool) : BitVec 1 := BitVec.ofBool b

/-- CHSTAT: [0] OUT, [1] WRAPS, [2] ABSMASK[CH], others 0 (10_state.md R30). -/
def chstatWord (p : Params) (k : Nat) (c : Channel) : U32 :=
  (0 : BitVec 29) ++ bit (isAbs p k) ++ bit c.wraps ++ bit c.out

/-- DIRTY: [0] DIRTY_F, [1] DIRTY_D, [2] DIRTY_P, others 0 (10_state.md R30). -/
def dirtyWord (c : Channel) : U32 :=
  (0 : BitVec 29) ++ bit c.dirtyP ++ bit c.dirtyD ++ bit c.dirtyF

/-- RACT: [0] RACT_F, [1] RACT_D, [2] RACT_P, others 0 (10_state.md R30). -/
def ractWord (c : Channel) : U32 :=
  (0 : BitVec 29) ++ bit c.rampP.act ++ bit c.rampD.act ++ bit c.rampF.act

/-- FREE = 0, MASTER = 1, CLIENT = 2 (00_scope.md R6). -/
def roleCode : Role → BitVec 2
  | .free => 0
  | .master => 1
  | .client => 2

/-- PULSE = 0, MSG = 1 (00_scope.md R6). -/
def linkCode : Link → BitVec 1
  | .pulse => 0
  | .msg => 1

/-- `RXST` as its two bits (10_state.md R28). -/
def rxstCode : RxState → BitVec 2
  | .idle => 0
  | .gotMarker => 1
  | .gotHi => 2

/-- STATUS: [0] RUN, [1] SYNCED, [3:2] ROLE, [4] LINK, [6:5] RXST, [7] SCHED_TICKS, others 0 (10_state.md R31). -/
def statusWord (s : State) : U32 :=
  (0 : BitVec 24) ++ bit s.cfg.schedTicks ++ rxstCode s.rxst ++ linkCode s.cfg.link ++ roleCode s.cfg.role
    ++ bit s.synced ++ bit s.run

/-- HEAD: [5:0] HEAD, others 0 (10_state.md R31). -/
def headWord (s : State) : U32 := (0 : BitVec 26) ++ BitVec.ofNat 6 s.head

/-- NCH: [4:0] NCH, others 0 (10_state.md R31). -/
def nchWord (p : Params) : U32 := (0 : BitVec 27) ++ BitVec.ofNat 5 p.nch

/-- NBUF: [6:0] NBUF, others 0 (10_state.md R31). -/
def nbufWord (p : Params) : U32 := (0 : BitVec 25) ++ BitVec.ofNat 7 p.nbuf

/-- SYNCCFG: [2:0] TOLSH, [3] 0, [7:4] MISSMAX, [15:8] HARDMUL, [16] NUDGE, [17] ADOPT, [23:18] 0, [31:24]
MARKER (10_state.md R31). -/
def syncCfgWord (p : Params) : U32 :=
  p.marker ++ (0 : BitVec 6) ++ bit p.adopt ++ bit p.nudge ++ p.hardMul ++ p.missMax ++ (0 : BitVec 1) ++ p.tolSh

/-- FREQLIM: [15:0] FREQ_MIN, [31:16] FREQ_MAX (10_state.md R31). -/
def freqLimWord (p : Params) : U32 := p.freqMax ++ p.freqMin

/-- `zext_32` of a 16-bit register (00_scope.md R11; 10_state.md R30). -/
def zext16 (v : U16) : U32 := v.setWidth 32

/-- `zext_32` of an 8-bit register (00_scope.md R11; 10_state.md R30). -/
def zext8 (v : Byte) : U32 := v.setWidth 32

end Sys2Proof.Machine
end

