-- ==== Sys2Proof/Machine/Ops.lean ====
section
/-! DEFINITION. The operations the meanings share: writing channels, emitting outputs, `raise
InvalidArgument`, and the setters `setFreq`, `setDuty`, `setPhase` of 42_parameter_control.md. The block has
no trap (60_exceptions.md R123): what stands where other machines take an exception is `raiseInvalidArgument`. -/

namespace Sys2Proof.Machine

/-! ## State writes -/

/-- Write the registers of channel `c` (`X[c] <- v`, 00_scope.md R11). -/
def State.modifyChan (s : State) (c : Nat) (f : Channel → Channel) : State :=
  { s with chans := s.chans.modify c f }

/-- `for c in 0 .. NCH-1:` write the registers of channel c (00_scope.md R11). -/
def State.mapChans (s : State) (f : Nat → Channel → Channel) : State :=
  { s with chans := mapFrom f 0 s.chans }

/-- Append output events to the operation's outputs (20_memory.md R42). -/
def State.emit (s : State) (os : List Output) : State := { s with trace := s.trace ++ os }

/-! ## Operations that end with nothing changed -/

/-- `raise InvalidArgument`: "the operation ends, no register has changed, no output event is produced, nothing
records it" (60_exceptions.md R118). -/
def raiseInvalidArgument (s : State) : Host.Outcome State Fault Refusal := .next s

/-- A role no-op: the command "is consumed and changes nothing at all" (42_parameter_control.md R76). -/
def roleNoOp (s : State) : Host.Outcome State Fault Refusal := .next s

/-! ## The setters -/

/-- `recompute(c)` (40_timing_model.md R62). -/
def recompute (c : Channel) : Channel :=
  let w := windowOf c.period c.duty c.phase
  { c with startUs := w.startUs, endUs := w.endUs, wraps := w.wraps }

/-- The phase-continuity rescale: `(POS[c] * new) div old` (42_parameter_control.md R78). -/
def rescale (pos old new : U32) : U32 := u32 ((pos.toNat * new.toNat) / old.toNat)

/-- `setFreq(c, v)` (42_parameter_control.md R77). -/
def setFreq (v : U16) (c : Channel) : Channel :=
  recompute { c with pos := rescale c.pos c.period (periodOf v), freq := v, period := periodOf v }

/-- `setDuty(c, v)` (42_parameter_control.md R81). -/
def setDuty (v : U16) (c : Channel) : Channel := recompute { c with duty := clampDuty v }

/-- `setPhase(c, v)` (42_parameter_control.md R82). -/
def setPhase (v : U16) (c : Channel) : Channel := recompute { c with phase := clampPhase v }

/-- `set_p(c, v)`: `setFreq`, `setDuty` or `setPhase` (44_sequencing.md R109). -/
def setParam : Parameter → U16 → Channel → Channel
  | .freq => setFreq
  | .duty => setDuty
  | .phase => setPhase

end Sys2Proof.Machine
end

