-- ==== Sys2Proof/Machine/ParameterControl.lean ====
section
/-! DEFINITION. The Parameter Control Layer (42_parameter_control.md): the immediate setters and GET. -/

namespace Sys2Proof.Machine

/-- SET_FREQ ch, v (42_parameter_control.md R79). -/
def execSetFreq (ch : Byte) (v : U16) (s : State) : Host.Outcome State Fault Refusal :=
  if badChannel s.cfg ch then raiseInvalidArgument s
  else if freqNoOp s.cfg then roleNoOp s
  else if badFreq s.cfg v then raiseInvalidArgument s
  else .next (s.modifyChan ch.toNat fun c => clearRact .freq (setFreq v c))

/-- SET_GFREQ v (42_parameter_control.md R80): every channel, in one operation. -/
def execSetGFreq (v : U16) (s : State) : Host.Outcome State Fault Refusal :=
  if freqNoOp s.cfg then roleNoOp s
  else if badFreq s.cfg v then raiseInvalidArgument s
  else .next (s.mapChans fun _ c => clearRact .freq (setFreq v c))

/-- SET_DUTY ch, v (42_parameter_control.md R81): the value is clamped, not rejected (90_conflicts.md C1). -/
def execSetDuty (ch : Byte) (v : U16) (s : State) : Host.Outcome State Fault Refusal :=
  if badChannel s.cfg ch then raiseInvalidArgument s
  else .next (s.modifyChan ch.toNat fun c => clearRact .duty (setDuty v c))

/-- SET_PHASE ch, v (42_parameter_control.md R82): the value is clamped, not rejected (90_conflicts.md C1). -/
def execSetPhase (ch : Byte) (v : U16) (s : State) : Host.Outcome State Fault Refusal :=
  if badChannel s.cfg ch then raiseInvalidArgument s
  else if phaseNoOp s.cfg then roleNoOp s
  else .next (s.modifyChan ch.toNat fun c => clearRact .phase (setPhase v c))

/-! ## GET -/

/-- The ramp registers at selector `base` to `base + 4` (10_state.md R30): RSTART, RTARGET, RT0, RDELAY, RDUR. -/
def readRamp (r : Ramp) (off : Nat) : Option U32 :=
  if off = 0 then some (zext16 r.start)
  else if off = 1 then some (zext16 r.target)
  else if off = 2 then some r.t0
  else if off = 3 then some (zext16 r.delay)
  else if off = 4 then some (zext16 r.dur)
  else none

/-- The per-channel selectors of 10_state.md R30, for channel `k`; `none` for every other selector. -/
def readChannel (p : Params) (k : Nat) (c : Channel) (sel : Nat) : Option U32 :=
  if sel = 0x0000 then some (zext16 c.freq)
  else if sel = 0x0001 then some (zext16 c.duty)
  else if sel = 0x0002 then some (zext16 c.phase)
  else if sel = 0x0003 then some c.period
  else if sel = 0x0004 then some c.startUs
  else if sel = 0x0005 then some c.endUs
  else if sel = 0x0006 then some c.pos
  else if sel = 0x0007 then some (chstatWord p k c)
  else if sel = 0x0008 then some (zext16 c.pendFreq)
  else if sel = 0x0009 then some (zext16 c.pendDuty)
  else if sel = 0x000A then some (zext16 c.pendPhase)
  else if sel = 0x000B then some (dirtyWord c)
  else if sel = 0x000C then some (ractWord c)
  else if sel < 0x0010 then none
  else if sel < 0x0018 then readRamp c.rampF (sel - 0x0010)
  else if sel < 0x0020 then readRamp c.rampD (sel - 0x0018)
  else readRamp c.rampP (sel - 0x0020)

/-- The global selectors of 10_state.md R31; `none` for every other selector. -/
def readGlobal (s : State) (sel : Nat) : Option U32 :=
  if sel = 0x0080 then some (statusWord s)
  else if sel = 0x0081 then some s.lastTick
  else if sel = 0x0082 then some s.refTime
  else if sel = 0x0083 then some s.lastEvt
  else if sel = 0x0084 then some s.avg
  else if sel = 0x0085 then some s.lastEmit
  else if sel = 0x0086 then some (headWord s)
  else if sel = 0x0087 then some (zext8 s.rxhi)
  else if sel = 0x0088 then some (nchWord s.cfg)
  else if sel = 0x0089 then some (nbufWord s.cfg)
  else if sel = 0x008A then some s.cfg.syncIvl
  else if sel = 0x008B then some (zext16 s.cfg.latComp)
  else if sel = 0x008C then some (syncCfgWord s.cfg)
  else if sel = 0x008D then some (freqLimWord s.cfg)
  else if sel = 0x008E then some (zext16 s.cfg.absMask)
  else if 0x00C0 ≤ sel ∧ sel < 0x00C0 + s.cfg.nbuf then some (s.buf.getD (sel - 0x00C0) 0)
  else none

/-- `RegRead(ch, sel)` (42_parameter_control.md R85): a per-channel selector with `ch < NCH`, a global selector
with `ch = 0`, and 0 in every other case. -/
def regRead (s : State) (ch : Byte) (sel : U16) : U32 :=
  let perChannel :=
    if badChannel s.cfg ch then none else readChannel s.cfg ch.toNat (s.chan ch.toNat) sel.toNat
  let global := if ch = 0 then readGlobal s sel.toNat else none
  (perChannel.or global).getD 0

/-- GET ch, sel (42_parameter_control.md R84): always exactly one `Resp`, no state changed. -/
def execGet (ch : Byte) (sel : U16) (s : State) : Host.Outcome State Fault Refusal :=
  .next (s.emit [.resp (regRead s ch sel)])

end Sys2Proof.Machine
end

