-- ==== Sys2Proof/Machine/PhaseAccumulator.lean ====
section
/-! DEFINITION. The Phase Accumulator Engine (41_phase_accumulator.md): the procedure `tick`, with the master's
`emitCheck` (43_synchronization.md R90), and the commands NOP, BEGIN, TICK. -/

namespace Sys2Proof.Machine

/-- The stall guard (41_phase_accumulator.md R67): the elapsed time a channel of this period uses. -/
def guarded (dt period : U32) : Nat := if 2 * period.toNat < dt.toNat then 0 else dt.toNat

/-- The new `POS[c]` of a tick: design (a) for absolute channels (41_phase_accumulator.md R69), design (b) for
accumulator channels (R68). -/
def tickPos (p : Params) (now dt refTime : U32) (k : Nat) (c : Channel) : U32 :=
  if isAbs p k then u32 ((sub32 now refTime).toNat % c.period.toNat)
  else u32 ((c.pos.toNat + guarded dt c.period) % c.period.toNat)

/-- One channel's part of `tick` (41_phase_accumulator.md R66): the position, then the output latch (R70; the
latch takes the level, which changes it exactly when the two differ). -/
def tickChan (p : Params) (now dt refTime : U32) (k : Nat) (c : Channel) : Channel :=
  let pos := tickPos p now dt refTime k c
  { c with pos := pos, out := activeAt pos c.startUs c.endUs c.wraps }

/-- The PinWrite events of a tick: one for each channel whose latch changed, channels ascending
(41_phase_accumulator.md R66, R70). The lists are the channels before and after, the first of index `k`. -/
def pinWrites : Nat → List Channel → List Channel → List Output
  | k, b :: bs, a :: as =>
    (if a.out = b.out then [] else [Output.pinWrite k a.out]) ++ pinWrites (k + 1) bs as
  | _, _, _ => []

/-- The reference event a master emits (43_synchronization.md R91): a pulse, or the LINK3 packet of `MARKER`
and `FREQ[0]`, high byte first (30_encoding.md R55). -/
def referenceEvent (p : Params) (freq0 : U16) : Output :=
  match p.link with
  | .pulse => .syncPulse
  | .msg => .syncBytes p.marker (freq0.extractLsb' 8 8) (freq0.extractLsb' 0 8)

/-- `emitCheck(now)` (43_synchronization.md R90). -/
def emitCheck (now : U32) (s : State) : State :=
  let e := (sub32 now s.lastEmit).toNat
  if s.cfg.syncIvl.toNat ≤ e then
    { s.emit [referenceEvent s.cfg (s.chan 0).freq] with
      lastEmit := if 2 * s.cfg.syncIvl.toNat ≤ e then now else s.lastEmit + s.cfg.syncIvl }
  else s

/-- `tick(now)` up to `LASTTICK <- now` (41_phase_accumulator.md R66), for a running block. -/
def tickChannels (now : U32) (s : State) : State :=
  let dt := sub32 now s.lastTick
  let t := s.mapChans (tickChan s.cfg now dt s.refTime)
  { t.emit (pinWrites 0 s.chans t.chans) with lastTick := now }

/-- `tick(now)` (41_phase_accumulator.md R66). -/
def tick (now : U32) (s : State) : State :=
  if s.run then
    let t := tickChannels now s
    if s.cfg.role = .master then emitCheck now t else t
  else s

/-- NOP (41_phase_accumulator.md R74). -/
def execNop (s : State) : Host.Outcome State Fault Refusal := .next s

/-- BEGIN (41_phase_accumulator.md R71). -/
def execBegin (s : State) : Host.Outcome State Fault Refusal :=
  if s.run then .next s
  else .next { s with run := true, lastTick := s.nowUs, refTime := s.nowUs, lastEvt := s.nowUs, lastEmit := s.nowUs }

/-- TICK, the command (41_phase_accumulator.md R72). -/
def execTick (s : State) : Host.Outcome State Fault Refusal := .next (tick s.nowUs s)

/-- TICK_IN, the event (41_phase_accumulator.md R72). -/
def serveTickIn (s : State) : State := tick s.nowUs s

end Sys2Proof.Machine
end

