-- ==== Sys2Proof/Machine/Sequencing.lean ====
section
/-! DEFINITION. The Sequencing Layer (44_sequencing.md): the buffered setters, `applyPending`, the ramps, and
the scheduler pass. -/

namespace Sys2Proof.Machine

/-! ## Buffered setters -/

/-- SET_FREQ_NEXT ch, v (44_sequencing.md R105). -/
def execSetFreqNext (ch : Byte) (v : U16) (s : State) : Host.Outcome State Fault Refusal :=
  if badChannel s.cfg ch then raiseInvalidArgument s
  else if freqNoOp s.cfg then roleNoOp s
  else if badFreq s.cfg v then raiseInvalidArgument s
  else .next (s.modifyChan ch.toNat fun c => clearRact .freq { c with pendFreq := v, dirtyF := true })

/-- SET_DUTY_NEXT ch, v (44_sequencing.md R106). -/
def execSetDutyNext (ch : Byte) (v : U16) (s : State) : Host.Outcome State Fault Refusal :=
  if badChannel s.cfg ch then raiseInvalidArgument s
  else .next (s.modifyChan ch.toNat fun c => clearRact .duty { c with pendDuty := clampDuty v, dirtyD := true })

/-- SET_PHASE_NEXT ch, v (44_sequencing.md R107). -/
def execSetPhaseNext (ch : Byte) (v : U16) (s : State) : Host.Outcome State Fault Refusal :=
  if badChannel s.cfg ch then raiseInvalidArgument s
  else if phaseNoOp s.cfg then roleNoOp s
  else .next (s.modifyChan ch.toNat fun c => clearRact .phase { c with pendPhase := clampPhase v, dirtyP := true })

/-! ## applyPending -/

/-- The frequency line of `applyPending` (44_sequencing.md R108). -/
def applyFreq (c : Channel) : Channel :=
  if c.dirtyF then { setFreq c.pendFreq c with dirtyF := false } else c

/-- The duty line of `applyPending` (44_sequencing.md R108). -/
def applyDuty (c : Channel) : Channel :=
  if c.dirtyD then { setDuty c.pendDuty c with dirtyD := false } else c

/-- The phase line of `applyPending` (44_sequencing.md R108). -/
def applyPhase (c : Channel) : Channel :=
  if c.dirtyP then { setPhase c.pendPhase c with dirtyP := false } else c

/-- `applyPending()` on one channel: frequency, then duty, then phase (44_sequencing.md R108). -/
def applyPendingChan (c : Channel) : Channel := applyPhase (applyDuty (applyFreq c))

/-- `applyPending()` (44_sequencing.md R108). -/
def applyPending (s : State) : State := s.mapChans fun _ c => applyPendingChan c

/-! ## Ramps -/

/-- `startRamp(p, ch, tgt, dur, dly)` on the channel (44_sequencing.md R109). -/
def startRamp (p : Parameter) (tgt dur dly : U16) (nowMs : U32) (c : Channel) : Channel :=
  if dur = 0 ∧ dly = 0 then clearRact p (setParam p tgt c)
  else c.setRamp ⟨true, c.value p, tgt, nowMs, dly, dur⟩ p

/-- RAMP_FREQ ch, v, dur, dly (44_sequencing.md R110). -/
def execRampFreq (ch : Byte) (v dur dly : U16) (s : State) : Host.Outcome State Fault Refusal :=
  if badChannel s.cfg ch then raiseInvalidArgument s
  else if freqNoOp s.cfg then roleNoOp s
  else if badFreq s.cfg v then raiseInvalidArgument s
  else .next (s.modifyChan ch.toNat (startRamp .freq v dur dly s.nowMs))

/-- RAMP_DUTY ch, v, dur, dly (44_sequencing.md R111). -/
def execRampDuty (ch : Byte) (v dur dly : U16) (s : State) : Host.Outcome State Fault Refusal :=
  if badChannel s.cfg ch then raiseInvalidArgument s
  else .next (s.modifyChan ch.toNat (startRamp .duty (clampDuty v) dur dly s.nowMs))

/-- RAMP_PHASE ch, v, dur, dly (44_sequencing.md R112). -/
def execRampPhase (ch : Byte) (v dur dly : U16) (s : State) : Host.Outcome State Fault Refusal :=
  if badChannel s.cfg ch then raiseInvalidArgument s
  else if phaseNoOp s.cfg then roleNoOp s
  else .next (s.modifyChan ch.toNat (startRamp .phase (clampPhase v) dur dly s.nowMs))

/-- The value a ramp applies at `now` and whether it is done (44_sequencing.md R114). -/
def rampValue (now : U32) (r : Ramp) : U16 × Bool :=
  let el := (sub32 now r.t0).toNat
  if el < r.delay.toNat then (r.start, false)
  else if r.dur.toNat ≤ el - r.delay.toNat then (r.target, true)
  else (interp r.start r.target (el - r.delay.toNat) r.dur.toNat, false)

/-- The body of `rampStep` for one channel and parameter (44_sequencing.md R114). -/
def rampStepParam (now : U32) (p : Parameter) (c : Channel) : Channel :=
  if (c.ramp p).act then
    let vd := rampValue now (c.ramp p)
    if vd.2 then clearRact p (setParam p vd.1 c) else setParam p vd.1 c
  else c

/-- `rampStep` on one channel: F, D, P (44_sequencing.md R114). -/
def rampStepChan (now : U32) (c : Channel) : Channel :=
  rampStepParam now .phase (rampStepParam now .duty (rampStepParam now .freq c))

/-- `rampStep(now)` (44_sequencing.md R114). -/
def rampStep (now : U32) (s : State) : State := s.mapChans fun _ c => rampStepChan now c

/-! ## The scheduler pass -/

/-- The scheduler pass (44_sequencing.md R113): pending values, the tick of the polling variant
(90_conflicts.md C4), the ramps. -/
def schedulerPass (nowUs nowMs : U32) (s : State) : State :=
  if s.run then
    let t := applyPending s
    rampStep nowMs (if s.cfg.schedTicks then tick nowUs t else t)
  else s

/-- SCHED, the command (44_sequencing.md R113). -/
def execSched (s : State) : Host.Outcome State Fault Refusal := .next (schedulerPass s.nowUs s.nowMs s)

/-- SCHED_IN, the event (44_sequencing.md R113). -/
def serveSchedIn (s : State) : State := schedulerPass s.nowUs s.nowMs s

end Sys2Proof.Machine
end

