-- ==== Sys2Proof/Machine/Synchronization.lean ====
section
/-! DEFINITION. The Synchronization Subsystem of a client (43_synchronization.md): `hardResync`, `capture`,
`adopt`, the events SYNC_EDGE and SYNC_BYTE, and the reception of a link packet LINK3. The master's part,
`emitCheck`, runs inside the tick (PhaseAccumulator.lean). -/

namespace Sys2Proof.Machine

/-- `sub32(now, LATCOMP)` (43_synchronization.md R94, R98). -/
def latencyCorrected (p : Params) (now : U32) : U32 := sub32 now (zext16 p.latComp)

/-- `hardResync(now)` (43_synchronization.md R94). -/
def hardResync (now : U32) (s : State) : State :=
  { s.mapChans (fun _ c => { c with pos := 0 }) with
    lastEvt := now, refTime := latencyCorrected s.cfg now, synced := true }

/-- The multiples tried from `k` on, `fuel` of them, ascending, the first that fits taken; 1 if none fits
(43_synchronization.md R93, R96). `raw` fits k when `|raw - k * AVG| <= tol`. -/
def firstMultiple (raw avg tol : Nat) : Nat → Nat → Nat
  | _, 0 => 1
  | k, fuel + 1 =>
    if absDiff raw (k * avg) ≤ tol then k else firstMultiple raw avg tol (k + 1) fuel

/-- Step 2, missed-event compensation (43_synchronization.md R96): the n of `k in 2 .. MISSMAX`, with `tol =
AVG >> TOLSH`. -/
def missedMultiple (p : Params) (avg : U32) (raw : Nat) : Nat :=
  firstMultiple raw avg.toNat (avg.toNat / 2 ^ p.tolSh.toNat) 2 (p.missMax.toNat - 1)

/-- `(BUF[0] + ... + BUF[NBUF-1]) div NBUF` (10_state.md R26; 43_synchronization.md R97). -/
def meanOf (buf : List U32) (nbuf : Nat) : U32 := u32 ((buf.map BitVec.toNat).sum / nbuf)

/-- Step 3, the filter (43_synchronization.md R97). -/
def insertSample (sample : U32) (s : State) : State :=
  { s with
    buf := s.buf.set s.head sample
    head := (s.head + 1) % s.cfg.nbuf
    avg := meanOf (s.buf.set s.head sample) s.cfg.nbuf }

/-- `POS[c] <- (POS[c] - err) mod PERIOD[c]` for an accumulator channel (43_synchronization.md R98). -/
def nudgeChan (p : Params) (err : Int) (k : Nat) (c : Channel) : Channel :=
  if isAbs p k then c else { c with pos := u32 (modNat (c.pos.toNat - err) c.period.toNat) }

/-- Steps 2 to 5 of `capture(now)` for an ordinary event of raw interval `raw` (43_synchronization.md R93). -/
def captureInterval (now : U32) (raw : Nat) (s : State) : State :=
  let n := missedMultiple s.cfg s.avg raw
  let t := { insertSample (u32 (raw / n)) s with
    lastEvt := now, refTime := latencyCorrected s.cfg now, synced := true }
  if s.cfg.nudge then t.mapChans (nudgeChan s.cfg ((raw : Int) - (n : Int) * s.cfg.syncIvl.toNat)) else t

/-- `capture(now)` (43_synchronization.md R93): the first event and an implausibly late one are hard
resynchronizations (R95, R99). -/
def capture (now : U32) (s : State) : State :=
  let raw := (sub32 now s.lastEvt).toNat
  if s.synced = false then hardResync now s
  else if s.cfg.hardMul.toNat * s.cfg.syncIvl.toNat ≤ raw then hardResync now s
  else captureInterval now raw s

/-- `adopt(f)` (43_synchronization.md R101). -/
def adopt (f : U16) (s : State) : State :=
  if s.cfg.adopt && !badFreq s.cfg f then s.mapChans fun _ c => setFreq f c else s

/-- SYNC_EDGE (43_synchronization.md R92). -/
def serveSyncEdge (s : State) : State :=
  if s.run = true ∧ s.cfg.role = .client ∧ s.cfg.link = .pulse then capture s.nowUs s else s

/-- SYNC_BYTE b (43_synchronization.md R100). -/
def serveSyncByte (b : Byte) (s : State) : State :=
  if s.run = true ∧ s.cfg.role = .client ∧ s.cfg.link = .msg then
    match s.rxst with
    | .idle => if b = s.cfg.marker then { s with rxst := .gotMarker } else s
    | .gotMarker => { s with rxhi := b, rxst := .gotHi }
    | .gotHi => adopt (s.rxhi ++ b) (capture s.nowUs { s with rxst := .idle })
  else s

/-- LINK3 m, h, l: the three bytes of a packet, received one after the other (30_encoding.md R55;
43_synchronization.md R100). They carry the time stamps of the event being served (log entry 6). -/
def execLink3 (m h l : Byte) (s : State) : Host.Outcome State Fault Refusal :=
  .next (serveSyncByte l (serveSyncByte h (serveSyncByte m s)))

end Sys2Proof.Machine
end

