-- ==== Sys2Proof/Syntax.lean ====
section
/-! DEFINITION. The instructions: the fifteen commands of 30_encoding.md R53 and the link packet LINK3 of
R55, one constructor per row of spec/opcode_table.json. Operands are the unsigned fields of the word as
they stand (R52), so each has its field's width as its type and no operand can be out of its field. -/

namespace Sys2Proof

/-- One constructor per row of spec/opcode_table.json. `ch` is the field CH, `v` and `sel` the field A,
`dur` the field B, `dly` the field C (30_encoding.md R51 to R53). -/
inductive Instr where
  /-- `NOP` (41_phase_accumulator.md R74) -/
  | nop
  /-- `BEGIN` (41_phase_accumulator.md R71) -/
  | begin
  /-- `TICK` (41_phase_accumulator.md R72) -/
  | tick
  /-- `SCHED` (44_sequencing.md R113) -/
  | sched
  /-- `SET_FREQ ch, v` (42_parameter_control.md R79) -/
  | setFreq (ch : Byte) (v : U16)
  /-- `SET_DUTY ch, v` (42_parameter_control.md R81) -/
  | setDuty (ch : Byte) (v : U16)
  /-- `SET_PHASE ch, v` (42_parameter_control.md R82) -/
  | setPhase (ch : Byte) (v : U16)
  /-- `SET_GFREQ v` (42_parameter_control.md R80) -/
  | setGFreq (v : U16)
  /-- `SET_FREQ_NEXT ch, v` (44_sequencing.md R105) -/
  | setFreqNext (ch : Byte) (v : U16)
  /-- `SET_DUTY_NEXT ch, v` (44_sequencing.md R106) -/
  | setDutyNext (ch : Byte) (v : U16)
  /-- `SET_PHASE_NEXT ch, v` (44_sequencing.md R107) -/
  | setPhaseNext (ch : Byte) (v : U16)
  /-- `RAMP_FREQ ch, v, dur, dly` (44_sequencing.md R110) -/
  | rampFreq (ch : Byte) (v dur dly : U16)
  /-- `RAMP_DUTY ch, v, dur, dly` (44_sequencing.md R111) -/
  | rampDuty (ch : Byte) (v dur dly : U16)
  /-- `RAMP_PHASE ch, v, dur, dly` (44_sequencing.md R112) -/
  | rampPhase (ch : Byte) (v dur dly : U16)
  /-- `GET ch, sel` (42_parameter_control.md R84) -/
  | get (ch : Byte) (sel : U16)
  /-- `LINK3`: the bytes m, h, l on a MSG link (30_encoding.md R55; 43_synchronization.md R100) -/
  | link3 (m h l : Byte)
deriving DecidableEq, Repr

/-- What an instruction is written as: a command word on the CMD port, or a link packet, which "travels on
the link, never on the CMD port" (30_encoding.md R51). -/
inductive Wire where
  | cmd (w : CmdWord)
  | link (w : PacketWord)
deriving DecidableEq, Repr

/-- Why a command word is a reserved encoding (30_encoding.md R54). The block treats both alike. -/
inductive Reserved where
  /-- `OP` is not one of the fifteen values -/
  | opcode
  /-- a field that must be zero is not -/
  | nonzeroField
deriving DecidableEq, Repr

end Sys2Proof
end

