-- ==== Sys2Proof/Machine/Dispatch.lean ====
section
/-! DEFINITION. The meaning of each instruction (one arm per constructor of Instr). -/

namespace Sys2Proof.Machine

def exec (i : Instr) (s : State) : Host.Outcome State Fault Refusal :=
  match i with
  | .nop => Sys2Proof.Machine.execNop s
  | .begin => Sys2Proof.Machine.execBegin s
  | .tick => Sys2Proof.Machine.execTick s
  | .sched => Sys2Proof.Machine.execSched s
  | .setFreq ch v => Sys2Proof.Machine.execSetFreq ch v s
  | .setDuty ch v => Sys2Proof.Machine.execSetDuty ch v s
  | .setPhase ch v => Sys2Proof.Machine.execSetPhase ch v s
  | .setGFreq v => Sys2Proof.Machine.execSetGFreq v s
  | .setFreqNext ch v => Sys2Proof.Machine.execSetFreqNext ch v s
  | .setDutyNext ch v => Sys2Proof.Machine.execSetDutyNext ch v s
  | .setPhaseNext ch v => Sys2Proof.Machine.execSetPhaseNext ch v s
  | .rampFreq ch v dur dly => Sys2Proof.Machine.execRampFreq ch v dur dly s
  | .rampDuty ch v dur dly => Sys2Proof.Machine.execRampDuty ch v dur dly s
  | .rampPhase ch v dur dly => Sys2Proof.Machine.execRampPhase ch v dur dly s
  | .get ch sel => Sys2Proof.Machine.execGet ch sel s
  | .link3 m h l => Sys2Proof.Machine.execLink3 m h l s

end Sys2Proof.Machine
end

