-- ==== Sys2Proof/WellFormed.lean ====
section
/-! DEFINITION. Which parameter records are instances of the block (00_scope.md R6, R7) and which
instructions are well formed. One named check per constraint, so that each can be seen to refuse. -/

namespace Sys2Proof

namespace Params

/-- 00_scope.md R6: `NCH` is 1 to 16. -/
def nchOk (p : Params) : Bool := decide (1 ≤ p.nch ∧ p.nch ≤ 16)

/-- 00_scope.md R6: each of `INIT_FREQ`, `INIT_DUTY`, `INIT_PHASE` has one value per channel. -/
def initLengthsOk (p : Params) : Bool :=
  decide (p.initFreq.length = p.nch ∧ p.initDuty.length = p.nch ∧ p.initPhase.length = p.nch)

/-- 00_scope.md R7: `1 <= FREQ_MIN <= FREQ_MAX` (the upper bound 65535 is the field's width). -/
def freqLimitsOk (p : Params) : Bool :=
  decide (1 ≤ p.freqMin.toNat ∧ p.freqMin.toNat ≤ p.freqMax.toNat)

/-- 00_scope.md R7: `FREQ_MIN <= INIT_FREQ[c] <= FREQ_MAX`. -/
def initFreqOk (p : Params) : Bool :=
  p.initFreq.all fun f => decide (p.freqMin.toNat ≤ f.toNat ∧ f.toNat ≤ p.freqMax.toNat)

/-- 00_scope.md R7: `INIT_DUTY[c] <= 10000`. -/
def initDutyOk (p : Params) : Bool := p.initDuty.all fun d => decide (d.toNat ≤ 10000)

/-- 00_scope.md R7: `INIT_PHASE[c] <= 9999`. -/
def initPhaseOk (p : Params) : Bool := p.initPhase.all fun q => decide (q.toNat ≤ 9999)

/-- 00_scope.md R7: `INIT_PHASE[c] = 0` for every c when `ROLE = MASTER`. -/
def masterPhaseOk (p : Params) : Bool :=
  decide (p.role ≠ .master) || p.initPhase.all fun q => decide (q = 0)

/-- 00_scope.md R7: `ABSMASK` has no bit set at or above `NCH`. -/
def absMaskOk (p : Params) : Bool := decide (p.absMask.toNat < 2 ^ p.nch)

/-- 00_scope.md R7: `SYNCIVL >= 1`. -/
def syncIvlOk (p : Params) : Bool := decide (1 ≤ p.syncIvl.toNat)

/-- 00_scope.md R6: `MISSMAX` is 1 to 15. -/
def missMaxOk (p : Params) : Bool := decide (1 ≤ p.missMax.toNat)

/-- 00_scope.md R6: `HARDMUL` is 2 to 255. -/
def hardMulOk (p : Params) : Bool := decide (2 ≤ p.hardMul.toNat)

/-- 00_scope.md R6: `NBUF` is 1 to 64. -/
def nbufOk (p : Params) : Bool := decide (1 ≤ p.nbuf ∧ p.nbuf ≤ 64)

/-- The record is an instance of the block: every range of 00_scope.md R6 and every constraint of R7. -/
def legal (p : Params) : Bool :=
  p.nchOk && p.initLengthsOk && p.freqLimitsOk && p.initFreqOk && p.initDutyOk && p.initPhaseOk
    && p.masterPhaseOk && p.absMaskOk && p.syncIvlOk && p.missMaxOk && p.hardMulOk && p.nbufOk

end Params

/-- A well-formed instruction of an instance. A command's operands are the fields of its word as they stand
(30_encoding.md R52), so their types are all the check there is; a link packet is well formed when its
first byte is the instance's `MARKER` (R55). -/
def Instr.wellFormed (p : Params) : Instr → Bool
  | .nop | .begin | .tick | .sched => true
  | .setFreq _ _ | .setDuty _ _ | .setPhase _ _ | .setGFreq _ => true
  | .setFreqNext _ _ | .setDutyNext _ _ | .setPhaseNext _ _ => true
  | .rampFreq _ _ _ _ | .rampDuty _ _ _ _ | .rampPhase _ _ _ _ => true
  | .get _ _ => true
  | .link3 m _ _ => m == p.marker

end Sys2Proof
end

