-- ==== Sys2Proof/Decode.lean ====
section
/-! DEFINITION. The decoder and the encoder of 30_encoding.md R51 to R55. Decoding is total: a command word
that matches no row of R53 is a reserved encoding, answered by its reason (R54). -/

namespace Sys2Proof

/-! ## Fields of a command word (R51) -/

/-- `OP = w[63:56]` -/
def opField (w : CmdWord) : Byte := w.extractLsb' 56 8
/-- `CH = w[55:48]` -/
def chField (w : CmdWord) : Byte := w.extractLsb' 48 8
/-- `A = w[47:32]` -/
def aField (w : CmdWord) : U16 := w.extractLsb' 32 16
/-- `B = w[31:16]` -/
def bField (w : CmdWord) : U16 := w.extractLsb' 16 16
/-- `C = w[15:0]` -/
def cField (w : CmdWord) : U16 := w.extractLsb' 0 16

/-- `w = OP ++ CH ++ A ++ B ++ C` (R51). -/
def packCmd (op ch : Byte) (a b c : U16) : CmdWord := op ++ ch ++ a ++ b ++ c

/-! ## The decoder -/

/-- A row whose must-be-zero fields are tested by `zero`: the instruction, or the reserved encoding of R54. -/
def rowOf (zero : Bool) (i : Instr) : Except Reserved Instr :=
  if zero then .ok i else .error .nonzeroField

/-- The opcode map of 30_encoding.md R53: the `OP` field alone chooses the row, and the fields the row says
are 0 must be zero. -/
def decodeCmd (w : CmdWord) : Except Reserved Instr :=
  let ch := chField w
  let a := aField w
  let b := bField w
  let c := cField w
  let bc0 := b == 0 && c == 0
  let all0 := ch == 0 && a == 0 && bc0
  match opField w with
  | 0x00#8 => rowOf all0 .nop
  | 0x01#8 => rowOf all0 .begin
  | 0x02#8 => rowOf all0 .tick
  | 0x03#8 => rowOf all0 .sched
  | 0x10#8 => rowOf bc0 (.setFreq ch a)
  | 0x11#8 => rowOf bc0 (.setDuty ch a)
  | 0x12#8 => rowOf bc0 (.setPhase ch a)
  | 0x13#8 => rowOf (ch == 0 && bc0) (.setGFreq a)
  | 0x20#8 => rowOf bc0 (.setFreqNext ch a)
  | 0x21#8 => rowOf bc0 (.setDutyNext ch a)
  | 0x22#8 => rowOf bc0 (.setPhaseNext ch a)
  | 0x30#8 => .ok (.rampFreq ch a b c)
  | 0x31#8 => .ok (.rampDuty ch a b c)
  | 0x32#8 => .ok (.rampPhase ch a b c)
  | 0x40#8 => rowOf bc0 (.get ch a)
  | _ => .error .opcode

/-- The link packet of R55: byte 0 in bits 23:16, the high frequency byte in 15:8, the low one in 7:0. Any
three bytes are a packet's pattern; whether byte 0 is the marker is `Instr.wellFormed`, and what a receiver
does with other bytes is the deframer's (43_synchronization.md R100). -/
def decodeLink (w : PacketWord) : Instr :=
  .link3 (w.extractLsb' 16 8) (w.extractLsb' 8 8) (w.extractLsb' 0 8)

/-- The decoder, on a command word or a link packet. -/
def decode : Wire → Except Reserved Instr
  | .cmd w => decodeCmd w
  | .link w => .ok (decodeLink w)

/-- A command word delivered over a narrower bus: "most significant byte first, so that the opcode byte
arrives first; the block acts only when all eight bytes are in" (20_memory.md R44 (2)). -/
def cmdOfBytes : List Byte → Option CmdWord
  | [b7, b6, b5, b4, b3, b2, b1, b0] => some (b7 ++ b6 ++ b5 ++ b4 ++ b3 ++ b2 ++ b1 ++ b0)
  | _ => none

/-- The instruction the decoder reads from an instruction of `nbits` bits whose bits are `w`, numbered as
spec/opcode_table.json numbers them: its CMD64 rows are 64 bits wide and its LINK3 row 24, each one number
with bit 0 its least significant bit. -/
def decodeTableWord (nbits w : Nat) : Option Instr :=
  if nbits = 64 then (decode (.cmd (BitVec.ofNat 64 w))).toOption
  else if nbits = 24 then (decode (.link (BitVec.ofNat 24 w))).toOption
  else none

/-! ## The encoder -/

/-- The word of an instruction, from the table of R53 (`OP` and the fields a row says are 0) and from R55. -/
def encode : Instr → Wire
  | .nop => .cmd (packCmd 0x00 0 0 0 0)
  | .begin => .cmd (packCmd 0x01 0 0 0 0)
  | .tick => .cmd (packCmd 0x02 0 0 0 0)
  | .sched => .cmd (packCmd 0x03 0 0 0 0)
  | .setFreq ch v => .cmd (packCmd 0x10 ch v 0 0)
  | .setDuty ch v => .cmd (packCmd 0x11 ch v 0 0)
  | .setPhase ch v => .cmd (packCmd 0x12 ch v 0 0)
  | .setGFreq v => .cmd (packCmd 0x13 0 v 0 0)
  | .setFreqNext ch v => .cmd (packCmd 0x20 ch v 0 0)
  | .setDutyNext ch v => .cmd (packCmd 0x21 ch v 0 0)
  | .setPhaseNext ch v => .cmd (packCmd 0x22 ch v 0 0)
  | .rampFreq ch v dur dly => .cmd (packCmd 0x30 ch v dur dly)
  | .rampDuty ch v dur dly => .cmd (packCmd 0x31 ch v dur dly)
  | .rampPhase ch v dur dly => .cmd (packCmd 0x32 ch v dur dly)
  | .get ch sel => .cmd (packCmd 0x40 ch sel 0 0)
  | .link3 m h l => .link (m ++ h ++ l)

end Sys2Proof
end

