-- ==== Sys2Proof/Machine/Fetch.lean ====
section
/-! DEFINITION. How the block comes to its next operation: events arrive and wait (20_memory.md R41, R45), are
served in the order of 60_exceptions.md R125, and a RESET is served at once (70_reset_and_hazards.md R136).
The block fetches nothing (10_state.md R33); placing a command word where it is served next stands for the
host delivering it (log entry 2). -/

namespace Sys2Proof.Machine

/-- RESET (70_reset_and_hazards.md R136): every register takes its reset value, no output is emitted, every
waiting event is discarded (60_exceptions.md R125). It reads no time stamp; the environment goes on and
what was emitted stays emitted. -/
def resetBlock (s : State) : State :=
  { State.resetOf s.cfg with nowUs := s.nowUs, nowMs := s.nowMs, env := s.env, trace := s.trace }

/-- The events of one instant in their order of service: the link event, TICK_IN, SCHED_IN, CMD
(60_exceptions.md R125). Of an edge and a byte at once the edge comes first; only one of the two is live, so
the order cannot be seen. DESIGN CHOICE, safe (log entry 2). -/
def Arrivals.events (a : Arrivals) : List Event :=
  (if a.edge then [.syncEdge] else []) ++ (a.byte.toList.map .syncByte) ++ (if a.tick then [.tickIn] else [])
    ++ (if a.sched then [.schedIn] else []) ++ (a.cmd.toList.map .cmd)

/-- An instant at the ports: a RESET is served at once and discards what waits, the events of its own instant
among them (60_exceptions.md R125; 70_reset_and_hazards.md R136; log entry 5); otherwise what arrives waits
behind what arrived before, with the time stamps sampled now (20_memory.md R43; 90_conflicts.md C11). -/
def arrive (a : Arrivals) (s : State) : State :=
  if a.reset then resetBlock s
  else { s with waiting := s.waiting ++ a.events.map fun e => ⟨e, a.us, a.ms⟩ }

/-- What a step does: nothing is left to serve, or an event is served in the state given. -/
inductive Pick where
  | settled (s : State)
  | serve (e : Event) (s : State)
deriving DecidableEq, Repr

/-- The oldest waiting event, its time stamps latched as `now_us` and `now_ms` (20_memory.md R43); with nothing
waiting the block goes on waiting (10_state.md R33). -/
def takeWaiting (s : State) : Pick :=
  match s.waiting with
  | [] => .settled s
  | e :: q => .serve e.ev { s with waiting := q, nowUs := e.us, nowMs := e.ms }

/-- The environment's next move; an environment that has nothing more to offer lets waiting events be served. -/
def nextPick (s : State) : Pick :=
  match s.env with
  | .arrive a :: m => .settled (arrive a { s with env := m })
  | .serve :: m => takeWaiting { s with env := m }
  | [] => takeWaiting s

/-- A reserved encoding: "it is consumed, it changes no state, it produces no output" (30_encoding.md R54). -/
def ignoreReserved (s : State) : State := s

/-- Put an event at the head of the waiting ones, to be served by the very next step with the time stamps the
state holds. -/
def placeNext (e : Event) (s : State) : State :=
  { s with waiting := ⟨e, s.nowUs, s.nowMs⟩ :: s.waiting, env := .serve :: s.env }

/-- The instruction of `nbits` bits `w`, placed to be served next: a link packet if it has the 24 bits of the
LINK3 row, a command word otherwise. -/
def placeWord (s : State) (nbits w : Nat) : State :=
  if nbits = 24 then placeNext (.packet (BitVec.ofNat 24 w)) s
  else placeNext (.cmd (BitVec.ofNat 64 w)) s

end Sys2Proof.Machine
end

