-- ==== Sys2Proof/Machine/Step.lean ====
section
/-! DEFINITION. One step: the environment's next move, or one operation (20_memory.md R41, R45). -/

namespace Sys2Proof.Machine

/-- Serve one event in the state that holds its time stamps (20_memory.md R41). -/
def serveEvent (e : Event) (s : State) : Host.Outcome State Fault Refusal :=
  match e with
  | .cmd w =>
    match decodeCmd w with
    | .ok i => exec i s
    | .error _ => .next (ignoreReserved s)
  | .packet w => exec (decodeLink w) s
  | .tickIn => .next (serveTickIn s)
  | .schedIn => .next (serveSchedIn s)
  | .syncEdge => .next (serveSyncEdge s)
  | .syncByte b => .next (serveSyncByte b s)

/-- One step of the machine. An instance whose parameters break 00_scope.md R6 or R7 is refused. -/
def step (s : State) : Host.Outcome State Fault Refusal :=
  if s.cfg.legal then
    match nextPick s with
    | .settled t => .next t
    | .serve e t => serveEvent e t
  else .refused .illegalInstance

/-- The instruction whose bits are `w`, placed where the next step serves it. -/
def State.withFetchWord (s : State) (nbits w : Nat) : State := placeWord s nbits w

end Sys2Proof.Machine
end

