-- ==== Sys2Proof/Safety.lean ====
section
/-! DEFINITION. The terms the statements use: the invariants of 10_state.md R32, and what the spec's procedures
do to a channel or to the state, written once more as relations over natural numbers and integers, apart from
the model's own functions. -/

namespace Sys2Proof.Safety

open Sys2Proof.Machine

/-! ## The invariants (10_state.md R32) -/

/-- `START`, `END`, `WRAPS` are what `recompute` gives for `PERIOD`, `DUTY`, `PHASE` (40_timing_model.md R62). -/
abbrev WindowIs (c : Channel) : Prop :=
  c.startUs.toNat = c.period.toNat * c.phase.toNat / 10000 ∧
  (if c.period.toNat < c.startUs.toNat + c.period.toNat * c.duty.toNat / 10000 then
    c.endUs.toNat + c.period.toNat = c.startUs.toNat + c.period.toNat * c.duty.toNat / 10000 ∧ c.wraps = true
   else
    c.endUs.toNat = c.startUs.toNat + c.period.toNat * c.duty.toNat / 10000 ∧ c.wraps = false)

/-- `FREQ_MIN <= v <= FREQ_MAX`. -/
abbrev FreqInRange (p : Params) (v : U16) : Prop :=
  p.freqMin.toNat ≤ v.toNat ∧ v.toNat ≤ p.freqMax.toNat

/-- The items of 10_state.md R32 about one channel, and one more, `dirtyF_pend`, without which they are not
kept by a scheduler pass: a dirty pending frequency is a legal one (44_sequencing.md R105). -/
structure ChannelInv (p : Params) (c : Channel) : Prop where
  freq : FreqInRange p c.freq
  duty : c.duty.toNat ≤ 10000
  phase : c.phase.toNat ≤ 9999
  masterPhase : p.role = .master → c.phase = 0
  period : c.period.toNat = 10000000 / c.freq.toNat
  period_ge : 152 ≤ c.period.toNat
  period_le : c.period.toNat ≤ 10000000
  window : WindowIs c
  start_lt : c.startUs.toNat < c.period.toNat
  end_le : c.endUs.toNat ≤ c.period.toNat
  pos_lt : c.pos.toNat < c.period.toNat
  clientF : p.role = .client → c.rampF.act = false ∧ c.dirtyF = false
  masterP : p.role = .master → c.rampP.act = false ∧ c.dirtyP = false
  pendDuty : c.pendDuty.toNat ≤ 10000
  pendPhase : c.pendPhase.toNat ≤ 9999
  pendFreq : c.pendFreq = 0 ∨ FreqInRange p c.pendFreq
  targetDuty : c.rampD.target.toNat ≤ 10000
  targetPhase : c.rampP.target.toNat ≤ 9999
  rampFreq : c.rampF.act = true → FreqInRange p c.rampF.start ∧ FreqInRange p c.rampF.target
  dirtyF_pend : c.dirtyF = true → FreqInRange p c.pendFreq

/-- The invariants of 10_state.md R32 on an instance whose parameters obey 00_scope.md R6 and R7. -/
structure Inv (s : State) : Prop where
  legal : s.cfg.legal = true
  nchans : s.chans.length = s.cfg.nch
  chans : ∀ c ∈ s.chans, ChannelInv s.cfg c
  nbuf : s.buf.length = s.cfg.nbuf
  head : s.head < s.cfg.nbuf
  avg : s.avg.toNat = (s.buf.map BitVec.toNat).sum / s.cfg.nbuf
  rxst : (rxstCode s.rxst).toNat ≤ 2

/-! ## Frames -/

/-- `t` differs from `s` in the registers of channel `k` alone, and those go from `old` to `new` as `R` says. -/
def OnlyChannel (k : Nat) (s t : State) (R : Channel → Channel → Prop) : Prop :=
  t = { s with chans := t.chans } ∧ t.chans.length = s.chans.length ∧
  (∀ j, j ≠ k → t.chans[j]? = s.chans[j]?) ∧
  ∃ old new, s.chans[k]? = some old ∧ t.chans[k]? = some new ∧ R old new

/-- The channels go from `xs` to `ys`, each channel k as `R k` says. -/
def EachChannel (xs ys : List Channel) (R : Nat → Channel → Channel → Prop) : Prop :=
  ys.length = xs.length ∧
  ∀ k old, xs[k]? = some old → ∃ new, ys[k]? = some new ∧ R k old new

/-! ## Time differences -/

/-- The time difference `sub32(a, b)` as a number (00_scope.md R10). -/
abbrev elapsed (a b : U32) : Nat := (a.toNat + 2 ^ 32 - b.toNat) % 2 ^ 32

/-! ## The setters (42_parameter_control.md R77, R78, R81, R82) -/

/-- `setFreq(c, v)`: the frequency, the period, the rescaled position, the window; nothing else. -/
def FreqSet (v : U16) (old new : Channel) : Prop :=
  new = { old with freq := v, period := new.period, pos := new.pos,
                   startUs := new.startUs, endUs := new.endUs, wraps := new.wraps } ∧
  new.period.toNat = 10000000 / v.toNat ∧
  new.pos.toNat = old.pos.toNat * new.period.toNat / old.period.toNat ∧
  WindowIs new

/-- `setDuty(c, v)`: the clamped duty, the window; nothing else. -/
def DutySet (v : U16) (old new : Channel) : Prop :=
  new = { old with duty := new.duty, startUs := new.startUs, endUs := new.endUs, wraps := new.wraps } ∧
  new.duty.toNat = min v.toNat 10000 ∧ WindowIs new

/-- `setPhase(c, v)`: the clamped phase, the window; nothing else. -/
def PhaseSet (v : U16) (old new : Channel) : Prop :=
  new = { old with phase := new.phase, startUs := new.startUs, endUs := new.endUs, wraps := new.wraps } ∧
  new.phase.toNat = min v.toNat 9999 ∧ WindowIs new

/-- `set_p(c, v)`. -/
def ParamSet : Parameter → U16 → Channel → Channel → Prop
  | .freq => FreqSet
  | .duty => DutySet
  | .phase => PhaseSet

/-- `RACT_p[c] <- 0`, written field by field. -/
def RampEnded : Parameter → Channel → Channel → Prop
  | .freq, old, new => new = { old with rampF := { old.rampF with act := false } }
  | .duty, old, new => new = { old with rampD := { old.rampD with act := false } }
  | .phase, old, new => new = { old with rampP := { old.rampP with act := false } }

/-- `set_p(c, v)` and then `RACT_p[c] <- 0`. -/
def SetAndEnd (p : Parameter) (v : U16) (old new : Channel) : Prop :=
  ∃ mid, ParamSet p v old mid ∧ RampEnded p mid new

/-! ## Ramps and pending values (44_sequencing.md R108, R109, R114, R115) -/

/-- `startRamp(p, ch, tgt, dur, dly)` at `now` milliseconds. -/
def RampStarted (p : Parameter) (tgt dur dly : U16) (now : U32) (old new : Channel) : Prop :=
  if dur.toNat = 0 ∧ dly.toNat = 0 then SetAndEnd p tgt old new
  else
    let r : Ramp := { act := true, start := old.value p, target := tgt, t0 := now, delay := dly, dur := dur }
    match p with
    | .freq => new = { old with rampF := r }
    | .duty => new = { old with rampD := r }
    | .phase => new = { old with rampP := r }

/-- `v = interp(s, t, q, d)`. -/
def Interpolated (s t : U16) (q d : Nat) (v : U16) : Prop :=
  (v.toNat : Int) =
    if s.toNat ≤ t.toNat then (s.toNat : Int) + (((t.toNat - s.toNat) * q / d : Nat) : Int)
    else (s.toNat : Int) - (((s.toNat - t.toNat) * q / d : Nat) : Int)

/-- The body of `rampStep` for one parameter of one channel at `now` milliseconds. -/
def RampStepped (now : U32) (p : Parameter) (old new : Channel) : Prop :=
  let r := old.ramp p
  let el := elapsed now r.t0
  if r.act = false then new = old
  else if el < r.delay.toNat then ParamSet p r.start old new
  else if r.dur.toNat ≤ el - r.delay.toNat then SetAndEnd p r.target old new
  else ∃ v, Interpolated r.start r.target (el - r.delay.toNat) r.dur.toNat v ∧ ParamSet p v old new

/-- `rampStep` on one channel: F, then D, then P. -/
def AllRampsStepped (now : U32) (old new : Channel) : Prop :=
  ∃ a b, RampStepped now .freq old a ∧ RampStepped now .duty a b ∧ RampStepped now .phase b new

/-- `applyPending` on one channel: F, then D, then P. -/
def PendingApplied (old new : Channel) : Prop :=
  ∃ a b,
    (if old.dirtyF then ∃ m, FreqSet old.pendFreq old m ∧ a = { m with dirtyF := false } else a = old) ∧
    (if a.dirtyD then ∃ m, DutySet a.pendDuty a m ∧ b = { m with dirtyD := false } else b = a) ∧
    (if b.dirtyP then ∃ m, PhaseSet b.pendPhase b m ∧ new = { m with dirtyP := false } else new = b)

/-! ## The tick (41_phase_accumulator.md R66 to R70; 43_synchronization.md R90, R91) -/

/-- The position is inside the active window (40_timing_model.md R63). -/
abbrev InWindow (c : Channel) : Prop :=
  if c.wraps then c.startUs.toNat ≤ c.pos.toNat ∨ c.pos.toNat < c.endUs.toNat
  else c.startUs.toNat ≤ c.pos.toNat ∧ c.pos.toNat < c.endUs.toNat

/-- One channel in a tick at the time stamp `s.nowUs`: the position and the latch; nothing else. -/
def Ticked (s : State) (k : Nat) (old new : Channel) : Prop :=
  let dt := elapsed s.nowUs s.lastTick
  new = { old with pos := new.pos, out := new.out } ∧
  new.pos.toNat =
    (if s.cfg.absMask.getLsbD k then elapsed s.nowUs s.refTime % old.period.toNat
     else (old.pos.toNat + if 2 * old.period.toNat < dt then 0 else dt) % old.period.toNat) ∧
  (new.out = true ↔ InWindow new)

/-- The PinWrite events of a tick that takes the channels `xs` to `ys`: the changed latches, ascending. -/
def latchWrites (xs ys : List Channel) : List Output :=
  ((xs.zip ys).zipIdx).filterMap fun e =>
    if e.1.1.out = e.1.2.out then none else some (Output.pinWrite e.2 e.1.2.out)

/-- What `emitCheck(now)` puts on the link, `freq0` being `FREQ[0]`: bytes as numbers. -/
def Emitted (p : Params) (freq0 : U16) (o : Output) : Prop :=
  match p.link with
  | .pulse => o = .syncPulse
  | .msg => ∃ hi lo : Byte, o = .syncBytes p.marker hi lo ∧
      hi.toNat = freq0.toNat / 256 ∧ lo.toNat = freq0.toNat % 256

/-- `tick(now)` on a running block, `now` being `s.nowUs`. -/
def TickOf (s t : State) : Prop :=
  let e := elapsed s.nowUs s.lastEmit
  t = { s with chans := t.chans, lastTick := s.nowUs, lastEmit := t.lastEmit, trace := t.trace } ∧
  EachChannel s.chans t.chans (Ticked s) ∧
  (if s.cfg.role = .master ∧ s.cfg.syncIvl.toNat ≤ e then
    (∃ c0 o, s.chans[0]? = some c0 ∧ Emitted s.cfg c0.freq o ∧
      t.trace = s.trace ++ latchWrites s.chans t.chans ++ [o]) ∧
    t.lastEmit.toNat =
      (if 2 * s.cfg.syncIvl.toNat ≤ e then s.nowUs.toNat
       else (s.lastEmit.toNat + s.cfg.syncIvl.toNat) % 2 ^ 32)
   else t.trace = s.trace ++ latchWrites s.chans t.chans ∧ t.lastEmit = s.lastEmit)

/-! ## The client (43_synchronization.md R93 to R101) -/

/-- `sub32(now, LATCOMP)` as a number. -/
abbrev corrected (p : Params) (now : U32) : Nat := (now.toNat + 2 ^ 32 - p.latComp.toNat) % 2 ^ 32

/-- `hardResync(now)`. -/
def HardResynced (now : U32) (s t : State) : Prop :=
  t = { s with chans := t.chans, lastEvt := now, refTime := t.refTime, synced := true } ∧
  t.refTime.toNat = corrected s.cfg now ∧
  EachChannel s.chans t.chans fun _ old new => new = { old with pos := 0 }

/-- `raw` fits the multiple `k`: `|raw - k * AVG| <= AVG >> TOLSH` (43_synchronization.md R96). -/
def Fits (s : State) (raw k : Nat) : Prop :=
  |(raw : Int) - (k : Int) * (s.avg.toNat : Int)| ≤ ((s.avg.toNat / 2 ^ s.cfg.tolSh.toNat : Nat) : Int)

/-- `n` is the first multiple from 2 to `MISSMAX` that fits, or 1 if none does (43_synchronization.md R96). -/
def IsMultiple (s : State) (raw n : Nat) : Prop :=
  (n = 1 ∧ ∀ k, 2 ≤ k → k ≤ s.cfg.missMax.toNat → ¬ Fits s raw k) ∨
  (2 ≤ n ∧ n ≤ s.cfg.missMax.toNat ∧ Fits s raw n ∧ ∀ k, 2 ≤ k → k < n → ¬ Fits s raw k)

/-- The drift nudge of one channel by the error `err` (43_synchronization.md R98). -/
def Nudged (p : Params) (err : Int) (k : Nat) (old new : Channel) : Prop :=
  if p.nudge = true ∧ p.absMask.getLsbD k = false then
    new = { old with pos := new.pos } ∧
    (new.pos.toNat : Int) = ((old.pos.toNat : Int) - err) % (old.period.toNat : Int)
  else new = old

/-- An ordinary reference event of raw interval `raw`, taken as `n` intervals (43_synchronization.md R96 to R99). -/
def IntervalTaken (now : U32) (raw n : Nat) (s t : State) : Prop :=
  ∃ sample : U32, sample.toNat = raw / n ∧
  t = { s with chans := t.chans, buf := s.buf.set s.head sample, head := (s.head + 1) % s.cfg.nbuf,
               avg := t.avg, lastEvt := now, refTime := t.refTime, synced := true } ∧
  t.avg.toNat = (t.buf.map BitVec.toNat).sum / s.cfg.nbuf ∧
  t.refTime.toNat = corrected s.cfg now ∧
  EachChannel s.chans t.chans (Nudged s.cfg ((raw : Int) - (n : Int) * (s.cfg.syncIvl.toNat : Int)))

/-- `capture(now)` (43_synchronization.md R93). -/
def Captured (now : U32) (s t : State) : Prop :=
  let raw := elapsed now s.lastEvt
  if s.synced = false ∨ s.cfg.hardMul.toNat * s.cfg.syncIvl.toNat ≤ raw then HardResynced now s t
  else ∃ n, IsMultiple s raw n ∧ IntervalTaken now raw n s t

/-- `adopt(f)` (43_synchronization.md R101). -/
def Adopted (f : U16) (s t : State) : Prop :=
  if s.cfg.adopt = true ∧ FreqInRange s.cfg f then
    t = { s with chans := t.chans } ∧ EachChannel s.chans t.chans fun _ => FreqSet f
  else t = s

/-! ## Reset (10_state.md R36; 70_reset_and_hazards.md R136) -/

/-- Every register has the value of the table of 10_state.md R36 for the parameters `p`. -/
def ResetRegisters (p : Params) (t : State) : Prop :=
  t.chans.length = p.nch ∧
  (∀ (k : Nat) (c : Channel), t.chans[k]? = some c →
    p.initFreq[k]? = some c.freq ∧ p.initDuty[k]? = some c.duty ∧ p.initPhase[k]? = some c.phase ∧
    c.period.toNat = 10000000 / c.freq.toNat ∧ WindowIs c ∧ c.pos = 0 ∧ c.out = false ∧
    c.pendFreq = 0 ∧ c.pendDuty = 0 ∧ c.pendPhase = 0 ∧
    c.dirtyF = false ∧ c.dirtyD = false ∧ c.dirtyP = false ∧
    c.rampF = ⟨false, 0, 0, 0, 0, 0⟩ ∧ c.rampD = ⟨false, 0, 0, 0, 0, 0⟩ ∧ c.rampP = ⟨false, 0, 0, 0, 0, 0⟩) ∧
  t.run = false ∧ t.synced = false ∧
  t.lastTick = 0 ∧ t.refTime = 0 ∧ t.lastEvt = 0 ∧ t.lastEmit = 0 ∧
  t.buf.length = p.nbuf ∧ (∀ x ∈ t.buf, x = p.syncIvl) ∧ t.head = 0 ∧ t.avg = p.syncIvl ∧
  t.rxst = .idle ∧ t.rxhi = 0

/-- The next move of the environment is an instant at which RESET arrives. -/
def ResetArrives (s : State) : Prop := ∃ a m, s.env = .arrive a :: m ∧ a.reset = true

/-! ## Answers of GET (42_parameter_control.md R84, R85) -/

/-- GET answers `v`, and nothing else happens. -/
def Answers (s : State) (ch : Byte) (sel : U16) (v : U32) : Prop :=
  exec (.get ch sel) s = .next { s with trace := s.trace ++ [.resp v] }

/-- A number as a 32-bit response. -/
abbrev asWord (n : Nat) : U32 := BitVec.ofNat 32 n

/-- The per-channel selectors of 20_memory.md R39. -/
abbrev ChannelSelector (sel : Nat) : Prop :=
  sel ≤ 0x000C ∨ (0x0010 ≤ sel ∧ sel ≤ 0x0014) ∨ (0x0018 ≤ sel ∧ sel ≤ 0x001C) ∨ (0x0020 ≤ sel ∧ sel ≤ 0x0024)

/-- The global selectors of 20_memory.md R39. -/
abbrev GlobalSelector (p : Params) (sel : Nat) : Prop :=
  (0x0080 ≤ sel ∧ sel ≤ 0x008E) ∨ (0x00C0 ≤ sel ∧ sel < 0x00C0 + p.nbuf)

/-! ## The opcode map in match and mask form (30_encoding.md R53) -/

/-- The fifteen rows for the word `w`: mask, match, and the command with its operands. A word w is the command of
a row when `w AND mask = match`; its operands are the fields of `w` as unsigned numbers, `CH = w[55:48]`,
`A = w[47:32]`, `B = w[31:16]`, `C = w[15:0]` (30_encoding.md R51, R52). -/
def opcodeRows (w : CmdWord) : List (CmdWord × CmdWord × Instr) :=
  let ch : Byte := BitVec.ofNat 8 (w.toNat / 2 ^ 48)
  let a : U16 := BitVec.ofNat 16 (w.toNat / 2 ^ 32)
  let b : U16 := BitVec.ofNat 16 (w.toNat / 2 ^ 16)
  let c : U16 := BitVec.ofNat 16 w.toNat
  [ (0xFFFFFFFFFFFFFFFF, 0x0000000000000000, .nop)
  , (0xFFFFFFFFFFFFFFFF, 0x0100000000000000, .begin)
  , (0xFFFFFFFFFFFFFFFF, 0x0200000000000000, .tick)
  , (0xFFFFFFFFFFFFFFFF, 0x0300000000000000, .sched)
  , (0xFF000000FFFFFFFF, 0x1000000000000000, .setFreq ch a)
  , (0xFF000000FFFFFFFF, 0x1100000000000000, .setDuty ch a)
  , (0xFF000000FFFFFFFF, 0x1200000000000000, .setPhase ch a)
  , (0xFFFF0000FFFFFFFF, 0x1300000000000000, .setGFreq a)
  , (0xFF000000FFFFFFFF, 0x2000000000000000, .setFreqNext ch a)
  , (0xFF000000FFFFFFFF, 0x2100000000000000, .setDutyNext ch a)
  , (0xFF000000FFFFFFFF, 0x2200000000000000, .setPhaseNext ch a)
  , (0xFF00000000000000, 0x3000000000000000, .rampFreq ch a b c)
  , (0xFF00000000000000, 0x3100000000000000, .rampDuty ch a b c)
  , (0xFF00000000000000, 0x3200000000000000, .rampPhase ch a b c)
  , (0xFF000000FFFFFFFF, 0x4000000000000000, .get ch a) ]

/-- The row `r` matches the word `w`. -/
abbrev RowMatches (w : CmdWord) (r : CmdWord × CmdWord × Instr) : Prop := w &&& r.1 = r.2.1

/-! ## Sequences of events -/

/-- TICK commands at the time stamps `us`, one after the other, take `s` to `t`. -/
def TicksRun : List U32 → State → State → Prop
  | [], s, t => t = s
  | u :: us, s, t => ∃ m, exec .tick { s with nowUs := u } = .next m ∧ TicksRun us m t

/-- SCHED commands at the time stamps (microseconds, milliseconds) listed, one after the other, take `s` to `t`. -/
def PassesRun : List (U32 × U32) → State → State → Prop
  | [], s, t => t = s
  | x :: xs, s, t => ∃ m, exec .sched { s with nowUs := x.1, nowMs := x.2 } = .next m ∧ PassesRun xs m t

/-- SYNC_EDGE events at the time stamps `us`, one after the other, take `s` to `t`. -/
def EdgesRun : List U32 → State → State → Prop
  | [], s, t => t = s
  | u :: us, s, t => ∃ m, serveEvent .syncEdge { s with nowUs := u } = .next m ∧ EdgesRun us m t

/-- The average once `j` samples `v` have replaced the `j` oldest entries of the ring buffer, the entry at `HEAD` being
the oldest (10_state.md R25, R26; 43_synchronization.md R97). -/
def averageAfter (s : State) (v : U32) (j : Nat) : Nat :=
  (j * v.toNat + (((s.buf.rotate s.head).drop j).map BitVec.toNat).sum) / s.cfg.nbuf

/-- The differences of successive time stamps, the first one from `last`. -/
def gaps : U32 → List U32 → List Nat
  | _, [] => []
  | last, u :: us => elapsed u last :: gaps u us

/-- The events of one instant in the order of 60_exceptions.md R125, RESET apart. -/
def inServiceOrder (a : Arrivals) : List Event :=
  (match a.edge with | true => [.syncEdge] | false => []) ++
  (match a.byte with | some b => [.syncByte b] | none => []) ++
  (match a.tick with | true => [.tickIn] | false => []) ++
  (match a.sched with | true => [.schedIn] | false => []) ++
  (match a.cmd with | some w => [.cmd w] | none => [])

end Sys2Proof.Safety
end

