-- ==== Sys2Proof/Certificates/Slice0/Obligations.lean ====
section
/-! DEFINITION. The statements for the provers, each from numbered rules of the spec. -/

open Sys2Proof Sys2Proof.Machine Sys2Proof.Safety

/-! ## Encoding -/

/-- 30_encoding.md R51 to R53, R55: decoding the word of any instruction gives the instruction back, whatever its
operands. -/
def Obligations.DecodeOfEncodeIsTheInstruction : Prop :=
  ∀ i : Instr, decode (encode i) = .ok i

/-- 30_encoding.md R51 to R55: each wire pattern has at most one meaning; encoding what a word decodes to gives
the word back. -/
def Obligations.EncodeOfDecodeIsTheWord : Prop :=
  ∀ (w : Wire) (i : Instr), decode w = .ok i → encode i = w

/-- 30_encoding.md R53: a command word decodes to a command exactly when it matches that command's row in match and
mask form, with the operands its fields hold, and no word matches two rows. -/
def Obligations.CommandWordsDecodeByMaskAndMatch : Prop :=
  ∀ w : CmdWord,
    (∀ i : Instr, decodeCmd w = .ok i ↔ ∃ r ∈ opcodeRows w, RowMatches w r ∧ r.2.2 = i) ∧
    (∀ r ∈ opcodeRows w, ∀ r' ∈ opcodeRows w, RowMatches w r → RowMatches w r' → r = r')

/-- 30_encoding.md R57: the worked encodings, and the packet example of R55. -/
def Obligations.WorkedEncodingsDecode : Prop :=
  decode (.cmd 0x100000C800000000) = .ok (.setFreq 0 200) ∧
  decode (.cmd 0x31021D4C03E800FA) = .ok (.rampDuty 2 7500 1000 250) ∧
  decode (.cmd 0x4001000600000000) = .ok (.get 1 0x0006) ∧
  decode (.cmd 0x0100000000000000) = .ok .begin ∧
  decode (.link 0xA5007D) = .ok (.link3 0xA5 0x00 0x7D) ∧
  decode (.cmd 0x0100000000000001) = .error .nonzeroField ∧
  decode (.cmd 0x0400000000000000) = .error .opcode

/-! ## Steps -/

/-- 20_memory.md R41, R43; 30_encoding.md R53: a step serves the oldest waiting event in the state that holds that event's
own time stamps, be it one of the five kinds of R41 that can wait (CMD, TICK_IN, SCHED_IN, SYNC_EDGE, SYNC_BYTE;
RESET is served as it arrives) or the model's own kind `packet`; for a command word that decodes that is the
meaning of the command. How an event comes to be the oldest waiting one, and when it is served (the fields `env`
and `waiting`), is the model's choice (log entry 2). That there is an event `packet`, which R41 does not have, and
that it runs LINK3 as an instruction, is the model's choice (log entry 6). -/
def Obligations.StepRunsTheDecodedCommand : Prop :=
  ∀ (s u : State) (e : Event) (us ms : U32) (q : List Stamped),
    s.cfg.legal = true → s.waiting = ⟨e, us, ms⟩ :: q →
    (s.env = [] ∧ u = { s with waiting := q, nowUs := us, nowMs := ms } ∨
      ∃ m, s.env = .serve :: m ∧ u = { s with env := m, waiting := q, nowUs := us, nowMs := ms }) →
    step s = serveEvent e u ∧
    (∀ w i, e = .cmd w → decodeCmd w = .ok i → step s = exec i u) ∧
    (∀ w i, e = .packet w → decode (.link w) = .ok i → step s = exec i u)

/-- 30_encoding.md R54: a word that matches no row is a reserved encoding: it is consumed, changes no register and
produces no output. The queue it waits in and the move that serves it are the model's choice (log entry 2). -/
def Obligations.ReservedWordIsIgnored : Prop :=
  ∀ (s : State) (w : CmdWord) (us ms : U32) (q : List Stamped),
    s.cfg.legal = true → s.waiting = ⟨.cmd w, us, ms⟩ :: q → (∀ r ∈ opcodeRows w, ¬ RowMatches w r) →
    (s.env = [] → step s = .next { s with waiting := q, nowUs := us, nowMs := ms }) ∧
    (∀ m, s.env = .serve :: m → step s = .next { s with env := m, waiting := q, nowUs := us, nowMs := ms })

/-- The model's own placement (log entry 2): the word or packet placed to be served next is what the very next
step runs. That a packet is an event, and LINK3 an instruction, is the model's choice too (log entry 6). -/
def Obligations.PlacedInstructionRunsNext : Prop :=
  ∀ (s : State) (nbits w : Nat) (i : Instr),
    s.cfg.legal = true → decodeTableWord nbits w = some i →
    step (s.withFetchWord nbits w) = exec i s

/-- 20_memory.md R41; 10_state.md R33: with no event left to arrive or to serve, the block waits unchanged.
The lists of both are the model's choice (log entry 2). -/
def Obligations.NoEventNoChange : Prop :=
  ∀ s : State, s.cfg.legal = true → s.env = [] → s.waiting = [] → step s = .next s

/-- 60_exceptions.md R125; 20_memory.md R43: what arrives at one instant queues behind what waits, link event
first, then TICK_IN, SCHED_IN, CMD, each with the time stamps of that instant, and nothing is served. The two
lists, and that an edge queues before a byte of the same instant, are the model's choice (log entry 2). -/
def Obligations.ArrivalsQueueInServiceOrder : Prop :=
  ∀ (s : State) (a : Arrivals) (m : List EnvMove),
    s.cfg.legal = true → s.env = .arrive a :: m → a.reset = false →
    step s = .next { s with env := m, waiting := s.waiting ++ (inServiceOrder a).map fun e => ⟨e, a.us, a.ms⟩ }

/-- 70_reset_and_hazards.md R136; 10_state.md R36; 60_exceptions.md R125: an arriving RESET is served at once,
discards every waiting event, gives every register its reset value and emits nothing. That events of the
same instant are discarded too, and that the environment goes on, is the model's reading (log entry 5). -/
def Obligations.ResetRestoresEveryRegister : Prop :=
  ∀ (s : State) (a : Arrivals) (m : List EnvMove),
    s.cfg.legal = true → s.env = .arrive a :: m → a.reset = true →
    ∃ t, step s = .next t ∧ ResetRegisters s.cfg t ∧
      t.cfg = s.cfg ∧ t.waiting = [] ∧ t.env = m ∧ t.trace = s.trace ∧ t.nowUs = s.nowUs ∧ t.nowMs = s.nowMs

/-- 10_state.md R36: the values of the table, in the reset state of every legal instance. That `State.reset` is the
reset state of the default parameters, of which the last line of R36 speaks, is the model's choice (log entry 1). -/
def Obligations.ResetStateHoldsTheTable : Prop :=
  (∀ p : Params, p.legal = true → ResetRegisters p (State.resetOf p) ∧ (State.resetOf p).cfg = p) ∧
  State.reset = State.resetOf Params.default ∧
  ∀ c ∈ State.reset.chans,
    c.freq = 100 ∧ c.duty = 0 ∧ c.phase = 0 ∧ c.period = 100000 ∧ c.startUs = 0 ∧ c.endUs = 0 ∧ c.wraps = false

/-! ## Invariants and rules of the whole machine -/

/-- 70_reset_and_hazards.md R137: after reset of any legal instance the invariants of 10_state.md R32 hold
(with the model's additions, log entry 11). -/
def Obligations.EveryLegalInstanceResetsIntoTheInvariants : Prop :=
  ∀ p : Params, p.legal = true → Inv (State.resetOf p)

/-- 10_state.md R32: every step keeps the invariants (and the legality of the parameters, and that a dirty
pending frequency is legal, without which item (1) is not kept: log entry 11). -/
def Obligations.EveryStepKeepsTheInvariants : Prop :=
  ∀ s t : State, Inv s → step s = .next t → Inv t

/-- 60_exceptions.md R122: every event has a defined result; no state of a legal instance stops the machine. -/
def Obligations.LegalInstanceNeverStops : Prop :=
  ∀ s : State, s.cfg.legal = true → ∃ t, step s = .next t

/-- 00_scope.md R7; 93_implementation_defined.md section 1: parameters that break a constraint are refused.
That step gives the refusal is the model's choice (log entry 1). -/
def Obligations.IllegalInstanceIsRefused : Prop :=
  ∀ s : State, s.cfg.legal = false → step s = .refused .illegalInstance

/-- 00_scope.md R6: the construction parameters are constants; no step changes them. -/
def Obligations.ParametersNeverChange : Prop :=
  ∀ s t : State, step s = .next t → t.cfg = s.cfg

/-- 10_state.md R20; 60_exceptions.md R122: nothing but RESET clears `RUN`. -/
def Obligations.OnlyResetClearsRun : Prop :=
  ∀ s t : State, step s = .next t → s.run = true → ¬ ResetArrives s → t.run = true

/-- 10_state.md R24; 60_exceptions.md R119: nothing but RESET clears `SYNCED`. -/
def Obligations.OnlyResetClearsSynced : Prop :=
  ∀ s t : State, step s = .next t → s.synced = true → ¬ ResetArrives s → t.synced = true

/-- 41_phase_accumulator.md R70; 42_parameter_control.md R86: no instruction but TICK, and SCHED where a pass
ticks, changes an output latch or drives a pin. -/
def Obligations.OutputLatchChangesOnlyInTicks : Prop :=
  ∀ (i : Instr) (s t : State), exec i s = .next t → i ≠ .tick → (i = .sched → s.cfg.schedTicks = false) →
    t.chans.map Channel.out = s.chans.map Channel.out ∧
    ∃ os, t.trace = s.trace ++ os ∧ ∀ c v, Output.pinWrite c v ∉ os

/-- 42_parameter_control.md R76: on a client no instruction but a received packet changes a frequency. -/
def Obligations.ClientFrequencyChangesOnlyByTheLink : Prop :=
  ∀ (i : Instr) (s t : State), Inv s → s.cfg.role = .client → exec i s = .next t →
    (∀ m h l, i ≠ .link3 m h l) →
    t.chans.map Channel.freq = s.chans.map Channel.freq

/-- 43_synchronization.md R103: apart from GET and reference events, nothing depends on the average or on the
ring buffer it is the mean of: other values there change nothing else. -/
def Obligations.AverageIsReadOnlyByGetAndCapture : Prop :=
  ∀ (i : Instr) (s t : State) (b : List U32) (h : Nat) (a : U32),
    (∀ ch sel, i ≠ .get ch sel) → (∀ m hi lo, i ≠ .link3 m hi lo) →
    exec i s = .next t →
    exec i { s with buf := b, head := h, avg := a } = .next { t with buf := b, head := h, avg := a }

/-! ## NOP, BEGIN, TICK, SCHED -/

/-- 41_phase_accumulator.md R74: NOP is the all-zero word, changes no state and produces no output; a reserved
encoding has the same effect. -/
def Obligations.NopChangesNothing : Prop :=
  decodeCmd 0 = .ok .nop ∧ (∀ s : State, exec .nop s = .next s) ∧
  ∀ (s : State) (w : CmdWord) (e : Reserved), decodeCmd w = .error e → serveEvent (.cmd w) s = exec .nop s

/-- 41_phase_accumulator.md R71: BEGIN sets `RUN` and the four time registers to now, once. -/
def Obligations.BeginStartsTheBlockOnce : Prop :=
  decodeCmd 0x0100000000000000 = .ok .begin ∧
  ∀ s : State, exec .begin s =
    if s.run = true then .next s
    else .next { s with run := true, lastTick := s.nowUs, refTime := s.nowUs, lastEvt := s.nowUs,
                        lastEmit := s.nowUs }

/-- 41_phase_accumulator.md R66 to R70, R72, R73; 43_synchronization.md R90, R91: the TICK command and the TICK_IN
event do the same: nothing before BEGIN, the tick afterwards. -/
def Obligations.TickAdvancesEveryChannel : Prop :=
  decodeCmd 0x0200000000000000 = .ok .tick ∧
  ∀ s : State, Inv s →
    serveEvent .tickIn s = exec .tick s ∧
    (if s.run = false then exec .tick s = .next s
     else ∃ t, exec .tick s = .next t ∧ TickOf s t)

/-- 41_phase_accumulator.md R75 (2): over any run of ticks in which no guard fires, the position of an accumulator
channel is the first position plus the whole elapsed time, modulo the period. -/
def Obligations.TicksIntegrateTimeExactly : Prop :=
  ∀ (us : List U32) (s : State) (k : Nat) (c : Channel), Inv s → s.run = true →
    s.chans[k]? = some c → s.cfg.absMask.getLsbD k = false →
    (∀ g ∈ gaps s.lastTick us, g ≤ 2 * c.period.toNat) →
    ∃ t c', TicksRun us s t ∧ t.chans[k]? = some c' ∧
      c'.pos.toNat = (c.pos.toNat + (gaps s.lastTick us).sum) % c.period.toNat

/-- 40_timing_model.md R63: the comparator is active at a position exactly when it lies in the active window; and, which
R63 marks as derived from R62, that is so for exactly `width` of the positions of a cycle. -/
def Obligations.ActivePositionsNumberTheWidth : Prop :=
  ∀ (p : Params) (c : Channel), ChannelInv p c →
    (∀ x : U32, activeAt x c.startUs c.endUs c.wraps = true ↔ InWindow { c with pos := x }) ∧
    ((List.range c.period.toNat).filter fun x => activeAt (asWord x) c.startUs c.endUs c.wraps).length =
      c.period.toNat * c.duty.toNat / 10000

/-- 44_sequencing.md R108, R113, R114: SCHED and SCHED_IN do the same: nothing before BEGIN; afterwards they apply
the pending values, tick if `SCHED_TICKS` is set, and step the ramps, in that order. -/
def Obligations.SchedulerPassAppliesTicksAndRamps : Prop :=
  decodeCmd 0x0300000000000000 = .ok .sched ∧
  ∀ s : State, Inv s →
    serveEvent .schedIn s = exec .sched s ∧
    (if s.run = false then exec .sched s = .next s
     else ∃ a b t,
      (a = { s with chans := a.chans } ∧ EachChannel s.chans a.chans fun _ => PendingApplied) ∧
      (if s.cfg.schedTicks = true then TickOf a b else b = a) ∧
      (t = { b with chans := t.chans } ∧ EachChannel b.chans t.chans fun _ => AllRampsStepped s.nowMs) ∧
      exec .sched s = .next t)

/-! ## The immediate setters -/

/-- 42_parameter_control.md R79 (with R76, R77, R83, R116): SET_FREQ. -/
def Obligations.SetFreqSetsOneFrequency : Prop :=
  ∀ (s : State) (ch : Byte) (v : U16), Inv s →
    decodeCmd (packCmd 0x10 ch v 0 0) = .ok (.setFreq ch v) ∧
    (if s.cfg.nch ≤ ch.toNat then exec (.setFreq ch v) s = .next s
     else if s.cfg.role = .client then exec (.setFreq ch v) s = .next s
     else if v.toNat < s.cfg.freqMin.toNat ∨ s.cfg.freqMax.toNat < v.toNat then exec (.setFreq ch v) s = .next s
     else ∃ t, exec (.setFreq ch v) s = .next t ∧ OnlyChannel ch.toNat s t (SetAndEnd .freq v))

/-- 42_parameter_control.md R80: SET_GFREQ sets every channel in one operation. -/
def Obligations.SetGFreqSetsEveryFrequency : Prop :=
  ∀ (s : State) (v : U16), Inv s →
    decodeCmd (packCmd 0x13 0 v 0 0) = .ok (.setGFreq v) ∧
    (if s.cfg.role = .client then exec (.setGFreq v) s = .next s
     else if v.toNat < s.cfg.freqMin.toNat ∨ s.cfg.freqMax.toNat < v.toNat then exec (.setGFreq v) s = .next s
     else ∃ t, exec (.setGFreq v) s = .next t ∧
      t = { s with chans := t.chans } ∧ EachChannel s.chans t.chans fun _ => SetAndEnd .freq v)

/-- 42_parameter_control.md R81: SET_DUTY clamps, stores, recomputes the window, ends the duty ramp. -/
def Obligations.SetDutySetsOneDuty : Prop :=
  ∀ (s : State) (ch : Byte) (v : U16), Inv s →
    decodeCmd (packCmd 0x11 ch v 0 0) = .ok (.setDuty ch v) ∧
    (if s.cfg.nch ≤ ch.toNat then exec (.setDuty ch v) s = .next s
     else ∃ t, exec (.setDuty ch v) s = .next t ∧ OnlyChannel ch.toNat s t (SetAndEnd .duty v))

/-- 42_parameter_control.md R82: SET_PHASE clamps, stores, recomputes the window, ends the phase ramp. -/
def Obligations.SetPhaseSetsOnePhase : Prop :=
  ∀ (s : State) (ch : Byte) (v : U16), Inv s →
    decodeCmd (packCmd 0x12 ch v 0 0) = .ok (.setPhase ch v) ∧
    (if s.cfg.nch ≤ ch.toNat then exec (.setPhase ch v) s = .next s
     else if s.cfg.role = .master then exec (.setPhase ch v) s = .next s
     else ∃ t, exec (.setPhase ch v) s = .next t ∧ OnlyChannel ch.toNat s t (SetAndEnd .phase v))

/-- 42_parameter_control.md R78: the rescale keeps the position inside the new period, loses less than one
microsecond of it, and moves nothing when the frequency stays. -/
def Obligations.FrequencyChangeKeepsTheFractionalPosition : Prop :=
  ∀ (p : Params) (c : Channel) (v : U16), p.legal = true → ChannelInv p c → FreqInRange p v →
    let n := setFreq v c
    n.pos.toNat < n.period.toNat ∧
    n.pos.toNat * c.period.toNat ≤ c.pos.toNat * n.period.toNat ∧
    c.pos.toNat * n.period.toNat < (n.pos.toNat + 1) * c.period.toNat ∧
    (v = c.freq → n.pos = c.pos)

/-! ## The buffered setters -/

/-- 44_sequencing.md R105: SET_FREQ_NEXT stores the checked value and its dirty flag and ends the frequency ramp. -/
def Obligations.SetFreqNextStoresOnePendingFrequency : Prop :=
  ∀ (s : State) (ch : Byte) (v : U16), Inv s →
    decodeCmd (packCmd 0x20 ch v 0 0) = .ok (.setFreqNext ch v) ∧
    (if s.cfg.nch ≤ ch.toNat then exec (.setFreqNext ch v) s = .next s
     else if s.cfg.role = .client then exec (.setFreqNext ch v) s = .next s
     else if v.toNat < s.cfg.freqMin.toNat ∨ s.cfg.freqMax.toNat < v.toNat then exec (.setFreqNext ch v) s = .next s
     else ∃ t, exec (.setFreqNext ch v) s = .next t ∧ OnlyChannel ch.toNat s t fun old new =>
      new = { old with pendFreq := v, dirtyF := true, rampF := { old.rampF with act := false } })

/-- 44_sequencing.md R106: SET_DUTY_NEXT stores the clamped value and its dirty flag and ends the duty ramp. -/
def Obligations.SetDutyNextStoresOnePendingDuty : Prop :=
  ∀ (s : State) (ch : Byte) (v : U16), Inv s →
    decodeCmd (packCmd 0x21 ch v 0 0) = .ok (.setDutyNext ch v) ∧
    (if s.cfg.nch ≤ ch.toNat then exec (.setDutyNext ch v) s = .next s
     else ∃ t, exec (.setDutyNext ch v) s = .next t ∧ OnlyChannel ch.toNat s t fun old new =>
      new = { old with pendDuty := new.pendDuty, dirtyD := true, rampD := { old.rampD with act := false } } ∧
      new.pendDuty.toNat = min v.toNat 10000)

/-- 44_sequencing.md R107: SET_PHASE_NEXT stores the clamped value and its dirty flag and ends the phase ramp. -/
def Obligations.SetPhaseNextStoresOnePendingPhase : Prop :=
  ∀ (s : State) (ch : Byte) (v : U16), Inv s →
    decodeCmd (packCmd 0x22 ch v 0 0) = .ok (.setPhaseNext ch v) ∧
    (if s.cfg.nch ≤ ch.toNat then exec (.setPhaseNext ch v) s = .next s
     else if s.cfg.role = .master then exec (.setPhaseNext ch v) s = .next s
     else ∃ t, exec (.setPhaseNext ch v) s = .next t ∧ OnlyChannel ch.toNat s t fun old new =>
      new = { old with pendPhase := new.pendPhase, dirtyP := true, rampP := { old.rampP with act := false } } ∧
      new.pendPhase.toNat = min v.toNat 9999)

/-! ## Ramps -/

/-- 44_sequencing.md R110 (with R109): RAMP_FREQ. -/
def Obligations.RampFreqRecordsOrSetsAtOnce : Prop :=
  ∀ (s : State) (ch : Byte) (v dur dly : U16), Inv s →
    decodeCmd (packCmd 0x30 ch v dur dly) = .ok (.rampFreq ch v dur dly) ∧
    (if s.cfg.nch ≤ ch.toNat then exec (.rampFreq ch v dur dly) s = .next s
     else if s.cfg.role = .client then exec (.rampFreq ch v dur dly) s = .next s
     else if v.toNat < s.cfg.freqMin.toNat ∨ s.cfg.freqMax.toNat < v.toNat then
      exec (.rampFreq ch v dur dly) s = .next s
     else ∃ t, exec (.rampFreq ch v dur dly) s = .next t ∧
      OnlyChannel ch.toNat s t (RampStarted .freq v dur dly s.nowMs))

/-- 44_sequencing.md R111 (with R109): RAMP_DUTY, the target clamped. -/
def Obligations.RampDutyRecordsOrSetsAtOnce : Prop :=
  ∀ (s : State) (ch : Byte) (v dur dly : U16), Inv s →
    decodeCmd (packCmd 0x31 ch v dur dly) = .ok (.rampDuty ch v dur dly) ∧
    (if s.cfg.nch ≤ ch.toNat then exec (.rampDuty ch v dur dly) s = .next s
     else ∃ (t : State) (tgt : U16), exec (.rampDuty ch v dur dly) s = .next t ∧ tgt.toNat = min v.toNat 10000 ∧
      OnlyChannel ch.toNat s t (RampStarted .duty tgt dur dly s.nowMs))

/-- 44_sequencing.md R112 (with R109): RAMP_PHASE, the target clamped. -/
def Obligations.RampPhaseRecordsOrSetsAtOnce : Prop :=
  ∀ (s : State) (ch : Byte) (v dur dly : U16), Inv s →
    decodeCmd (packCmd 0x32 ch v dur dly) = .ok (.rampPhase ch v dur dly) ∧
    (if s.cfg.nch ≤ ch.toNat then exec (.rampPhase ch v dur dly) s = .next s
     else if s.cfg.role = .master then exec (.rampPhase ch v dur dly) s = .next s
     else ∃ (t : State) (tgt : U16), exec (.rampPhase ch v dur dly) s = .next t ∧ tgt.toNat = min v.toNat 9999 ∧
      OnlyChannel ch.toNat s t (RampStarted .phase tgt dur dly s.nowMs))

/-- 44_sequencing.md R115: the interpolation starts at the start value, stays between start and target, and moves
away from the start monotonically. -/
def Obligations.InterpolationIsMonotoneBetweenItsEnds : Prop :=
  ∀ (s t : U16) (q q' d : Nat), q ≤ q' → q' < d →
    Interpolated s t q d (interp s t q d) ∧
    interp s t 0 d = s ∧
    min s.toNat t.toNat ≤ (interp s t q d).toNat ∧ (interp s t q d).toNat ≤ max s.toNat t.toNat ∧
    |((interp s t q d).toNat : Int) - s.toNat| ≤ |((interp s t q' d).toNat : Int) - s.toNat|

/-- 44_sequencing.md R108, R109, R111, R113, R114: a pass before the end of an active duty ramp (its delay and its
duration) leaves the ramp's record as it is, and a pass at or after the end sets the target and ends the ramp,
whatever duty is pending and whether the pass ticks or not. So the ramp of RAMP_DUTY stays active over any passes
before its end and reaches its clamped target at the first one at or after it. Only where delay and duration are
both 0, and the target was set at once, a pending duty would replace it. -/
def Obligations.DutyRampReachesItsTargetAndEnds : Prop :=
  (∀ (s : State) (k : Nat) (c : Channel), Inv s → s.run = true → s.chans[k]? = some c → c.rampD.act = true →
    ∃ t c', exec .sched s = .next t ∧ t.chans[k]? = some c' ∧
      (if elapsed s.nowMs c.rampD.t0 < c.rampD.delay.toNat + c.rampD.dur.toNat then c'.rampD = c.rampD
       else c'.duty = c.rampD.target ∧ c'.rampD = { c.rampD with act := false })) ∧
  (∀ (s : State) (ch : Byte) (v dur dly : U16) (before : List (U32 × U32)) (us ms : U32), Inv s → s.run = true →
    ch.toNat < s.cfg.nch →
    (dly.toNat + dur.toNat = 0 → ∀ c, s.chans[ch.toNat]? = some c → c.dirtyD = false) →
    (∀ x ∈ before, elapsed x.2 s.nowMs < dly.toNat + dur.toNat) →
    dly.toNat + dur.toNat ≤ elapsed ms s.nowMs →
    ∃ a b t cb c, exec (.rampDuty ch v dur dly) s = .next a ∧ PassesRun before a b ∧
      b.chans[ch.toNat]? = some cb ∧ (cb.rampD.act = true ↔ 0 < dly.toNat + dur.toNat) ∧
      exec .sched { b with nowUs := us, nowMs := ms } = .next t ∧
      t.chans[ch.toNat]? = some c ∧ c.duty.toNat = min v.toNat 10000 ∧ c.rampD.act = false)

/-! ## GET -/

/-- 42_parameter_control.md R84: GET answers exactly once, for any channel and selector, and changes no register. -/
def Obligations.GetAnswersOnceAndChangesNothing : Prop :=
  ∀ (s : State) (ch : Byte) (sel : U16),
    decodeCmd (packCmd 0x40 ch sel 0 0) = .ok (.get ch sel) ∧ ∃ v, Answers s ch sel v

/-- 10_state.md R30: what the per-channel selectors answer, for every channel. -/
def Obligations.ChannelSelectorsAnswerTheirRegisters : Prop :=
  ∀ (s : State) (ch : Byte) (c : Channel), Inv s → ch.toNat < s.cfg.nch → s.chans[ch.toNat]? = some c →
    Answers s ch 0x0000 (asWord c.freq.toNat) ∧ Answers s ch 0x0001 (asWord c.duty.toNat) ∧
    Answers s ch 0x0002 (asWord c.phase.toNat) ∧ Answers s ch 0x0003 c.period ∧
    Answers s ch 0x0004 c.startUs ∧ Answers s ch 0x0005 c.endUs ∧ Answers s ch 0x0006 c.pos ∧
    Answers s ch 0x0007
      (asWord (c.out.toNat + 2 * c.wraps.toNat + 4 * (s.cfg.absMask.getLsbD ch.toNat).toNat)) ∧
    Answers s ch 0x0008 (asWord c.pendFreq.toNat) ∧ Answers s ch 0x0009 (asWord c.pendDuty.toNat) ∧
    Answers s ch 0x000A (asWord c.pendPhase.toNat) ∧
    Answers s ch 0x000B (asWord (c.dirtyF.toNat + 2 * c.dirtyD.toNat + 4 * c.dirtyP.toNat)) ∧
    Answers s ch 0x000C (asWord (c.rampF.act.toNat + 2 * c.rampD.act.toNat + 4 * c.rampP.act.toNat)) ∧
    (∀ x ∈ [(0x0010, c.rampF), (0x0018, c.rampD), (0x0020, c.rampP)],
      Answers s ch x.1 (asWord x.2.start.toNat) ∧ Answers s ch (x.1 + 1) (asWord x.2.target.toNat) ∧
      Answers s ch (x.1 + 2) x.2.t0 ∧ Answers s ch (x.1 + 3) (asWord x.2.delay.toNat) ∧
      Answers s ch (x.1 + 4) (asWord x.2.dur.toNat))

/-- 10_state.md R31: what the global selectors answer with channel index 0. -/
def Obligations.GlobalSelectorsAnswerTheirRegisters : Prop :=
  ∀ s : State, Inv s →
    Answers s 0 0x0080 (asWord (s.run.toNat + 2 * s.synced.toNat +
      4 * (match s.cfg.role with | .free => 0 | .master => 1 | .client => 2) +
      16 * (match s.cfg.link with | .pulse => 0 | .msg => 1) +
      32 * (match s.rxst with | .idle => 0 | .gotMarker => 1 | .gotHi => 2) + 128 * s.cfg.schedTicks.toNat)) ∧
    Answers s 0 0x0081 s.lastTick ∧ Answers s 0 0x0082 s.refTime ∧ Answers s 0 0x0083 s.lastEvt ∧
    Answers s 0 0x0084 s.avg ∧ Answers s 0 0x0085 s.lastEmit ∧ Answers s 0 0x0086 (asWord s.head) ∧
    Answers s 0 0x0087 (asWord s.rxhi.toNat) ∧ Answers s 0 0x0088 (asWord s.cfg.nch) ∧
    Answers s 0 0x0089 (asWord s.cfg.nbuf) ∧ Answers s 0 0x008A s.cfg.syncIvl ∧
    Answers s 0 0x008B (asWord s.cfg.latComp.toNat) ∧
    Answers s 0 0x008C (asWord (s.cfg.tolSh.toNat + 2 ^ 4 * s.cfg.missMax.toNat + 2 ^ 8 * s.cfg.hardMul.toNat +
      2 ^ 16 * s.cfg.nudge.toNat + 2 ^ 17 * s.cfg.adopt.toNat + 2 ^ 24 * s.cfg.marker.toNat)) ∧
    Answers s 0 0x008D (asWord (s.cfg.freqMin.toNat + 2 ^ 16 * s.cfg.freqMax.toNat)) ∧
    Answers s 0 0x008E (asWord s.cfg.absMask.toNat) ∧
    (∀ k x, s.buf[k]? = some x → Answers s 0 (BitVec.ofNat 16 (0x00C0 + k)) x)

/-- 20_memory.md R39; 42_parameter_control.md R85: in every other case the answer is 0. -/
def Obligations.UndefinedSelectorsAnswerZero : Prop :=
  ∀ (s : State) (ch : Byte) (sel : U16),
    ¬ (ChannelSelector sel.toNat ∧ ch.toNat < s.cfg.nch) → ¬ (GlobalSelector s.cfg sel.toNat ∧ ch = 0) →
    Answers s ch sel 0

/-! ## The link -/

/-- 43_synchronization.md R92, R93 (with R94 to R99): SYNC_EDGE runs `capture` on a running client of a pulse link
and is ignored elsewhere. -/
def Obligations.SyncEdgeCapturesOnAPulseClient : Prop :=
  ∀ s : State, Inv s →
    if s.run = true ∧ s.cfg.role = .client ∧ s.cfg.link = .pulse then
      ∃ t, serveEvent .syncEdge s = .next t ∧ Captured s.nowUs s t
    else serveEvent .syncEdge s = .next s

/-- 43_synchronization.md R100, R101: SYNC_BYTE, the three-state deframer. -/
def Obligations.SyncByteRunsTheDeframer : Prop :=
  ∀ (s : State) (b : Byte), Inv s →
    if s.run = true ∧ s.cfg.role = .client ∧ s.cfg.link = .msg then
      match s.rxst with
      | .idle =>
        if b = s.cfg.marker then serveEvent (.syncByte b) s = .next { s with rxst := .gotMarker }
        else serveEvent (.syncByte b) s = .next s
      | .gotMarker => serveEvent (.syncByte b) s = .next { s with rxhi := b, rxst := .gotHi }
      | .gotHi => ∃ (a t : State) (f : U16), f.toNat = s.rxhi.toNat * 256 + b.toNat ∧
          Captured s.nowUs { s with rxst := .idle } a ∧ Adopted f a t ∧
          serveEvent (.syncByte b) s = .next t
    else serveEvent (.syncByte b) s = .next s

/-- The model's reading of LINK3 as an instruction (log entry 6): three SYNC_BYTE operations in a row. -/
def Obligations.LinkPacketIsThreeBytes : Prop :=
  ∀ (s : State) (m h l : Byte), ∃ a b t,
    serveEvent (.syncByte m) s = .next a ∧ serveEvent (.syncByte h) a = .next b ∧
    serveEvent (.syncByte l) b = .next t ∧ exec (.link3 m h l) s = .next t

/-- 30_encoding.md R55; 43_synchronization.md R100, R101: a whole packet received in step by a running client of a
message link captures once and adopts the frequency its high and low byte carry. That its three bytes carry
the same time stamps is the model's choice (log entry 6). -/
def Obligations.LinkPacketInStepCapturesAndAdopts : Prop :=
  ∀ (s : State) (h l : Byte), Inv s → s.run = true → s.cfg.role = .client → s.cfg.link = .msg → s.rxst = .idle →
    ∃ (a t : State) (f : U16), f.toNat = h.toNat * 256 + l.toNat ∧
      Captured s.nowUs { s with rxhi := h } a ∧ Adopted f a t ∧
      exec (.link3 s.cfg.marker h l) s = .next t

/-- 43_synchronization.md R97 (with R96): after NBUF equal intervals below the hard threshold, none of which fits a
multiple from 2 to `MISSMAX` of the average at its time (so none at all with `MISSMAX` 1, compensation off), every
entry of the ring buffer and the average are that interval. -/
def Obligations.FilterConvergesToAConstantInterval : Prop :=
  ∀ (us : List U32) (s : State) (v : U32), Inv s → s.run = true → s.cfg.role = .client → s.cfg.link = .pulse →
    s.synced = true → v.toNat < s.cfg.hardMul.toNat * s.cfg.syncIvl.toNat →
    us.length = s.cfg.nbuf → (∀ g ∈ gaps s.lastEvt us, g = v.toNat) →
    (∀ j k, j < s.cfg.nbuf → 2 ≤ k → k ≤ s.cfg.missMax.toNat →
      ((averageAfter s v j / 2 ^ s.cfg.tolSh.toNat : Nat) : Int) < |(v.toNat : Int) - k * averageAfter s v j|) →
    ∃ t, EdgesRun us s t ∧ (∀ x ∈ t.buf, x = v) ∧ t.avg = v ∧ t.head = s.head
end

