-- ==== Sys2Proof/Laws/Arith.lean ====
section
/-! SUPPORT. What the arithmetic helpers do, over natural numbers and integers. -/

namespace Sys2Proof.Machine

open Sys2Proof.Safety

@[simp] theorem u32_toNat (n : Nat) : (u32 n).toNat = n % 2 ^ 32 := BitVec.toNat_ofNat n 32

@[simp] theorem u16_toNat (n : Nat) : (u16 n).toNat = n % 2 ^ 16 := BitVec.toNat_ofNat n 16

theorem u32_toNat_of_lt {n : Nat} (h : n < 2 ^ 32) : (u32 n).toNat = n := by
  rw [u32_toNat, Nat.mod_eq_of_lt h]

theorem u16_toNat_of_lt {n : Nat} (h : n < 2 ^ 16) : (u16 n).toNat = n := by
  rw [u16_toNat, Nat.mod_eq_of_lt h]

theorem sub32_toNat (a b : U32) : (sub32 a b).toNat = elapsed a b := by
  have := a.isLt; have := b.isLt
  simp only [sub32, BitVec.toNat_sub, elapsed]
  congr 1; omega

theorem zext16_toNat (v : U16) : (zext16 v).toNat = v.toNat := by
  have := v.isLt
  simp only [zext16, BitVec.toNat_setWidth]; omega

theorem absDiff_eq_abs (a b : Nat) : ((absDiff a b : Nat) : Int) = |(a : Int) - b| := by
  unfold absDiff
  rcases le_total a b with h | h
  · rw [max_eq_right h, min_eq_left h, abs_of_nonpos (by omega)]; omega
  · rw [max_eq_left h, min_eq_right h, abs_of_nonneg (by omega)]; omega

theorem modNat_eq_emod (a : Int) {b : Nat} (h : 0 < b) : ((modNat a b : Nat) : Int) = a % (b : Int) := by
  unfold modNat
  exact Int.toNat_of_nonneg (Int.emod_nonneg _ (by omega))

theorem modNat_lt (a : Int) {b : Nat} (h : 0 < b) : modNat a b < b := by
  have := modNat_eq_emod a h
  have := Int.emod_lt_of_pos a (b := (b : Int)) (by omega)
  omega

/-- The quotient that `interp` adds or subtracts is at most the distance. -/
theorem mul_div_le_of_le {x q d : Nat} (h : q ≤ d) : x * q / d ≤ x := by
  rcases Nat.eq_zero_or_pos d with hd | hd
  · subst hd; simp
  · exact Nat.div_le_of_le_mul (by rw [Nat.mul_comm d x]; exact Nat.mul_le_mul_left x h)

/-- 44_sequencing.md R115: `interp` is the exact interpolation, nothing is truncated. -/
theorem interp_spec (s t : U16) {q d : Nat} (h : q ≤ d) : Interpolated s t q d (interp s t q d) := by
  have hs := s.isLt; have ht := t.isLt
  unfold Interpolated interp
  split
  · have := mul_div_le_of_le (x := t.toNat - s.toNat) h
    generalize (t.toNat - s.toNat) * q / d = e at *
    rw [u16_toNat_of_lt (by omega)]; push_cast; rfl
  · have := mul_div_le_of_le (x := s.toNat - t.toNat) h
    generalize (s.toNat - t.toNat) * q / d = e at *
    rw [u16_toNat_of_lt (by omega)]; omega

/-! ## Loops over the channels -/

@[simp] theorem mapFrom_length {α : Type} (f : Nat → α → α) (k : Nat) (xs : List α) :
    (mapFrom f k xs).length = xs.length := by
  induction xs generalizing k with
  | nil => rfl
  | cons x xs ih => simp [mapFrom, ih]

theorem mapFrom_getElem? {α : Type} (f : Nat → α → α) (k j : Nat) (xs : List α) :
    (mapFrom f k xs)[j]? = xs[j]?.map (f (k + j)) := by
  induction xs generalizing k j with
  | nil => simp [mapFrom]
  | cons x xs ih =>
    cases j with
    | zero => simp [mapFrom]
    | succ j => simp [mapFrom, ih, Nat.add_assoc, Nat.add_comm 1 j]

/-- Every member of a loop's result is the body's result on a member of the list. -/
theorem mem_mapFrom {α : Type} {f : Nat → α → α} {k : Nat} {xs : List α} {y : α} (h : y ∈ mapFrom f k xs) :
    ∃ j x, x ∈ xs ∧ y = f j x := by
  induction xs generalizing k with
  | nil => simp [mapFrom] at h
  | cons x xs ih =>
    rcases List.mem_cons.mp h with h | h
    · exact ⟨k, x, by simp, h⟩
    · obtain ⟨j, z, hz, e⟩ := ih h
      exact ⟨j, z, List.mem_cons_of_mem _ hz, e⟩

/-- What a loop over the channels does, channel by channel. -/
theorem mapFrom_each {R : Nat → Channel → Channel → Prop} {f : Nat → Channel → Channel} {xs : List Channel}
    (h : ∀ k c, xs[k]? = some c → R k c (f k c)) : EachChannel xs (mapFrom f 0 xs) R := by
  refine ⟨mapFrom_length f 0 xs, fun k old hk => ⟨f k old, ?_, h k old hk⟩⟩
  simp [mapFrom_getElem?, hk]

/-- What writing one channel does: that channel as the function says, nothing else. -/
theorem modifyChan_only {s : State} {k : Nat} {f : Channel → Channel} {R : Channel → Channel → Prop}
    (hk : k < s.chans.length) (h : ∀ c ∈ s.chans, R c (f c)) : OnlyChannel k s (s.modifyChan k f) R := by
  refine ⟨rfl, List.length_modify .., fun j hj => ?_, s.chans[k], f s.chans[k], ?_, ?_, h _ (List.getElem_mem hk)⟩
  · change (s.chans.modify k f)[j]? = _
    simp [Ne.symm hj]
  · exact List.getElem?_eq_getElem hk
  · change (s.chans.modify k f)[k]? = _
    simp [hk]

end Sys2Proof.Machine
end

