-- ==== Sys2Proof/Laws/State.lean ====
section
/-! SUPPORT. One lemma per field per named update of a state or a channel, true by rfl, so that no later proof
unfolds a record update. -/

namespace Sys2Proof.Machine

/-! ### State.modifyChan -/

@[simp] theorem State.modifyChan_cfg (s : State) (c : Nat) (f : Channel → Channel) : (s.modifyChan c f).cfg = s.cfg := rfl
@[simp] theorem State.modifyChan_chans (s : State) (c : Nat) (f : Channel → Channel) : (s.modifyChan c f).chans = s.chans.modify c f := rfl
@[simp] theorem State.modifyChan_run (s : State) (c : Nat) (f : Channel → Channel) : (s.modifyChan c f).run = s.run := rfl
@[simp] theorem State.modifyChan_lastTick (s : State) (c : Nat) (f : Channel → Channel) : (s.modifyChan c f).lastTick = s.lastTick := rfl
@[simp] theorem State.modifyChan_refTime (s : State) (c : Nat) (f : Channel → Channel) : (s.modifyChan c f).refTime = s.refTime := rfl
@[simp] theorem State.modifyChan_lastEvt (s : State) (c : Nat) (f : Channel → Channel) : (s.modifyChan c f).lastEvt = s.lastEvt := rfl
@[simp] theorem State.modifyChan_synced (s : State) (c : Nat) (f : Channel → Channel) : (s.modifyChan c f).synced = s.synced := rfl
@[simp] theorem State.modifyChan_buf (s : State) (c : Nat) (f : Channel → Channel) : (s.modifyChan c f).buf = s.buf := rfl
@[simp] theorem State.modifyChan_head (s : State) (c : Nat) (f : Channel → Channel) : (s.modifyChan c f).head = s.head := rfl
@[simp] theorem State.modifyChan_avg (s : State) (c : Nat) (f : Channel → Channel) : (s.modifyChan c f).avg = s.avg := rfl
@[simp] theorem State.modifyChan_lastEmit (s : State) (c : Nat) (f : Channel → Channel) : (s.modifyChan c f).lastEmit = s.lastEmit := rfl
@[simp] theorem State.modifyChan_rxst (s : State) (c : Nat) (f : Channel → Channel) : (s.modifyChan c f).rxst = s.rxst := rfl
@[simp] theorem State.modifyChan_rxhi (s : State) (c : Nat) (f : Channel → Channel) : (s.modifyChan c f).rxhi = s.rxhi := rfl
@[simp] theorem State.modifyChan_nowUs (s : State) (c : Nat) (f : Channel → Channel) : (s.modifyChan c f).nowUs = s.nowUs := rfl
@[simp] theorem State.modifyChan_nowMs (s : State) (c : Nat) (f : Channel → Channel) : (s.modifyChan c f).nowMs = s.nowMs := rfl
@[simp] theorem State.modifyChan_waiting (s : State) (c : Nat) (f : Channel → Channel) : (s.modifyChan c f).waiting = s.waiting := rfl
@[simp] theorem State.modifyChan_env (s : State) (c : Nat) (f : Channel → Channel) : (s.modifyChan c f).env = s.env := rfl
@[simp] theorem State.modifyChan_trace (s : State) (c : Nat) (f : Channel → Channel) : (s.modifyChan c f).trace = s.trace := rfl

/-! ### State.mapChans -/

@[simp] theorem State.mapChans_cfg (s : State) (f : Nat → Channel → Channel) : (s.mapChans f).cfg = s.cfg := rfl
@[simp] theorem State.mapChans_chans (s : State) (f : Nat → Channel → Channel) : (s.mapChans f).chans = mapFrom f 0 s.chans := rfl
@[simp] theorem State.mapChans_run (s : State) (f : Nat → Channel → Channel) : (s.mapChans f).run = s.run := rfl
@[simp] theorem State.mapChans_lastTick (s : State) (f : Nat → Channel → Channel) : (s.mapChans f).lastTick = s.lastTick := rfl
@[simp] theorem State.mapChans_refTime (s : State) (f : Nat → Channel → Channel) : (s.mapChans f).refTime = s.refTime := rfl
@[simp] theorem State.mapChans_lastEvt (s : State) (f : Nat → Channel → Channel) : (s.mapChans f).lastEvt = s.lastEvt := rfl
@[simp] theorem State.mapChans_synced (s : State) (f : Nat → Channel → Channel) : (s.mapChans f).synced = s.synced := rfl
@[simp] theorem State.mapChans_buf (s : State) (f : Nat → Channel → Channel) : (s.mapChans f).buf = s.buf := rfl
@[simp] theorem State.mapChans_head (s : State) (f : Nat → Channel → Channel) : (s.mapChans f).head = s.head := rfl
@[simp] theorem State.mapChans_avg (s : State) (f : Nat → Channel → Channel) : (s.mapChans f).avg = s.avg := rfl
@[simp] theorem State.mapChans_lastEmit (s : State) (f : Nat → Channel → Channel) : (s.mapChans f).lastEmit = s.lastEmit := rfl
@[simp] theorem State.mapChans_rxst (s : State) (f : Nat → Channel → Channel) : (s.mapChans f).rxst = s.rxst := rfl
@[simp] theorem State.mapChans_rxhi (s : State) (f : Nat → Channel → Channel) : (s.mapChans f).rxhi = s.rxhi := rfl
@[simp] theorem State.mapChans_nowUs (s : State) (f : Nat → Channel → Channel) : (s.mapChans f).nowUs = s.nowUs := rfl
@[simp] theorem State.mapChans_nowMs (s : State) (f : Nat → Channel → Channel) : (s.mapChans f).nowMs = s.nowMs := rfl
@[simp] theorem State.mapChans_waiting (s : State) (f : Nat → Channel → Channel) : (s.mapChans f).waiting = s.waiting := rfl
@[simp] theorem State.mapChans_env (s : State) (f : Nat → Channel → Channel) : (s.mapChans f).env = s.env := rfl
@[simp] theorem State.mapChans_trace (s : State) (f : Nat → Channel → Channel) : (s.mapChans f).trace = s.trace := rfl

/-! ### State.emit -/

@[simp] theorem State.emit_cfg (s : State) (os : List Output) : (s.emit os).cfg = s.cfg := rfl
@[simp] theorem State.emit_chans (s : State) (os : List Output) : (s.emit os).chans = s.chans := rfl
@[simp] theorem State.emit_run (s : State) (os : List Output) : (s.emit os).run = s.run := rfl
@[simp] theorem State.emit_lastTick (s : State) (os : List Output) : (s.emit os).lastTick = s.lastTick := rfl
@[simp] theorem State.emit_refTime (s : State) (os : List Output) : (s.emit os).refTime = s.refTime := rfl
@[simp] theorem State.emit_lastEvt (s : State) (os : List Output) : (s.emit os).lastEvt = s.lastEvt := rfl
@[simp] theorem State.emit_synced (s : State) (os : List Output) : (s.emit os).synced = s.synced := rfl
@[simp] theorem State.emit_buf (s : State) (os : List Output) : (s.emit os).buf = s.buf := rfl
@[simp] theorem State.emit_head (s : State) (os : List Output) : (s.emit os).head = s.head := rfl
@[simp] theorem State.emit_avg (s : State) (os : List Output) : (s.emit os).avg = s.avg := rfl
@[simp] theorem State.emit_lastEmit (s : State) (os : List Output) : (s.emit os).lastEmit = s.lastEmit := rfl
@[simp] theorem State.emit_rxst (s : State) (os : List Output) : (s.emit os).rxst = s.rxst := rfl
@[simp] theorem State.emit_rxhi (s : State) (os : List Output) : (s.emit os).rxhi = s.rxhi := rfl
@[simp] theorem State.emit_nowUs (s : State) (os : List Output) : (s.emit os).nowUs = s.nowUs := rfl
@[simp] theorem State.emit_nowMs (s : State) (os : List Output) : (s.emit os).nowMs = s.nowMs := rfl
@[simp] theorem State.emit_waiting (s : State) (os : List Output) : (s.emit os).waiting = s.waiting := rfl
@[simp] theorem State.emit_env (s : State) (os : List Output) : (s.emit os).env = s.env := rfl
@[simp] theorem State.emit_trace (s : State) (os : List Output) : (s.emit os).trace = s.trace ++ os := rfl

/-! ### hardResync -/

@[simp] theorem hardResync_cfg (s : State) (now : U32) : (hardResync now s).cfg = s.cfg := rfl
@[simp] theorem hardResync_chans (s : State) (now : U32) : (hardResync now s).chans = mapFrom (fun _ c => { c with pos := 0 }) 0 s.chans := rfl
@[simp] theorem hardResync_run (s : State) (now : U32) : (hardResync now s).run = s.run := rfl
@[simp] theorem hardResync_lastTick (s : State) (now : U32) : (hardResync now s).lastTick = s.lastTick := rfl
@[simp] theorem hardResync_refTime (s : State) (now : U32) : (hardResync now s).refTime = latencyCorrected s.cfg now := rfl
@[simp] theorem hardResync_lastEvt (s : State) (now : U32) : (hardResync now s).lastEvt = now := rfl
@[simp] theorem hardResync_synced (s : State) (now : U32) : (hardResync now s).synced = true := rfl
@[simp] theorem hardResync_buf (s : State) (now : U32) : (hardResync now s).buf = s.buf := rfl
@[simp] theorem hardResync_head (s : State) (now : U32) : (hardResync now s).head = s.head := rfl
@[simp] theorem hardResync_avg (s : State) (now : U32) : (hardResync now s).avg = s.avg := rfl
@[simp] theorem hardResync_lastEmit (s : State) (now : U32) : (hardResync now s).lastEmit = s.lastEmit := rfl
@[simp] theorem hardResync_rxst (s : State) (now : U32) : (hardResync now s).rxst = s.rxst := rfl
@[simp] theorem hardResync_rxhi (s : State) (now : U32) : (hardResync now s).rxhi = s.rxhi := rfl
@[simp] theorem hardResync_nowUs (s : State) (now : U32) : (hardResync now s).nowUs = s.nowUs := rfl
@[simp] theorem hardResync_nowMs (s : State) (now : U32) : (hardResync now s).nowMs = s.nowMs := rfl
@[simp] theorem hardResync_waiting (s : State) (now : U32) : (hardResync now s).waiting = s.waiting := rfl
@[simp] theorem hardResync_env (s : State) (now : U32) : (hardResync now s).env = s.env := rfl
@[simp] theorem hardResync_trace (s : State) (now : U32) : (hardResync now s).trace = s.trace := rfl

/-! ### insertSample -/

@[simp] theorem insertSample_cfg (s : State) (x : U32) : (insertSample x s).cfg = s.cfg := rfl
@[simp] theorem insertSample_chans (s : State) (x : U32) : (insertSample x s).chans = s.chans := rfl
@[simp] theorem insertSample_run (s : State) (x : U32) : (insertSample x s).run = s.run := rfl
@[simp] theorem insertSample_lastTick (s : State) (x : U32) : (insertSample x s).lastTick = s.lastTick := rfl
@[simp] theorem insertSample_refTime (s : State) (x : U32) : (insertSample x s).refTime = s.refTime := rfl
@[simp] theorem insertSample_lastEvt (s : State) (x : U32) : (insertSample x s).lastEvt = s.lastEvt := rfl
@[simp] theorem insertSample_synced (s : State) (x : U32) : (insertSample x s).synced = s.synced := rfl
@[simp] theorem insertSample_buf (s : State) (x : U32) : (insertSample x s).buf = s.buf.set s.head x := rfl
@[simp] theorem insertSample_head (s : State) (x : U32) : (insertSample x s).head = (s.head + 1) % s.cfg.nbuf := rfl
@[simp] theorem insertSample_avg (s : State) (x : U32) : (insertSample x s).avg = meanOf (s.buf.set s.head x) s.cfg.nbuf := rfl
@[simp] theorem insertSample_lastEmit (s : State) (x : U32) : (insertSample x s).lastEmit = s.lastEmit := rfl
@[simp] theorem insertSample_rxst (s : State) (x : U32) : (insertSample x s).rxst = s.rxst := rfl
@[simp] theorem insertSample_rxhi (s : State) (x : U32) : (insertSample x s).rxhi = s.rxhi := rfl
@[simp] theorem insertSample_nowUs (s : State) (x : U32) : (insertSample x s).nowUs = s.nowUs := rfl
@[simp] theorem insertSample_nowMs (s : State) (x : U32) : (insertSample x s).nowMs = s.nowMs := rfl
@[simp] theorem insertSample_waiting (s : State) (x : U32) : (insertSample x s).waiting = s.waiting := rfl
@[simp] theorem insertSample_env (s : State) (x : U32) : (insertSample x s).env = s.env := rfl
@[simp] theorem insertSample_trace (s : State) (x : U32) : (insertSample x s).trace = s.trace := rfl

/-! ### tickChannels -/

@[simp] theorem tickChannels_cfg (s : State) (now : U32) : (tickChannels now s).cfg = s.cfg := rfl
@[simp] theorem tickChannels_chans (s : State) (now : U32) : (tickChannels now s).chans = mapFrom (tickChan s.cfg now (sub32 now s.lastTick) s.refTime) 0 s.chans := rfl
@[simp] theorem tickChannels_run (s : State) (now : U32) : (tickChannels now s).run = s.run := rfl
@[simp] theorem tickChannels_lastTick (s : State) (now : U32) : (tickChannels now s).lastTick = now := rfl
@[simp] theorem tickChannels_refTime (s : State) (now : U32) : (tickChannels now s).refTime = s.refTime := rfl
@[simp] theorem tickChannels_lastEvt (s : State) (now : U32) : (tickChannels now s).lastEvt = s.lastEvt := rfl
@[simp] theorem tickChannels_synced (s : State) (now : U32) : (tickChannels now s).synced = s.synced := rfl
@[simp] theorem tickChannels_buf (s : State) (now : U32) : (tickChannels now s).buf = s.buf := rfl
@[simp] theorem tickChannels_head (s : State) (now : U32) : (tickChannels now s).head = s.head := rfl
@[simp] theorem tickChannels_avg (s : State) (now : U32) : (tickChannels now s).avg = s.avg := rfl
@[simp] theorem tickChannels_lastEmit (s : State) (now : U32) : (tickChannels now s).lastEmit = s.lastEmit := rfl
@[simp] theorem tickChannels_rxst (s : State) (now : U32) : (tickChannels now s).rxst = s.rxst := rfl
@[simp] theorem tickChannels_rxhi (s : State) (now : U32) : (tickChannels now s).rxhi = s.rxhi := rfl
@[simp] theorem tickChannels_nowUs (s : State) (now : U32) : (tickChannels now s).nowUs = s.nowUs := rfl
@[simp] theorem tickChannels_nowMs (s : State) (now : U32) : (tickChannels now s).nowMs = s.nowMs := rfl
@[simp] theorem tickChannels_waiting (s : State) (now : U32) : (tickChannels now s).waiting = s.waiting := rfl
@[simp] theorem tickChannels_env (s : State) (now : U32) : (tickChannels now s).env = s.env := rfl
@[simp] theorem tickChannels_trace (s : State) (now : U32) : (tickChannels now s).trace = s.trace ++ pinWrites 0 s.chans (mapFrom (tickChan s.cfg now (sub32 now s.lastTick) s.refTime) 0 s.chans) := rfl

/-! ### applyPending -/

@[simp] theorem applyPending_cfg (s : State)  : (applyPending s).cfg = s.cfg := rfl
@[simp] theorem applyPending_chans (s : State)  : (applyPending s).chans = mapFrom (fun _ c => applyPendingChan c) 0 s.chans := rfl
@[simp] theorem applyPending_run (s : State)  : (applyPending s).run = s.run := rfl
@[simp] theorem applyPending_lastTick (s : State)  : (applyPending s).lastTick = s.lastTick := rfl
@[simp] theorem applyPending_refTime (s : State)  : (applyPending s).refTime = s.refTime := rfl
@[simp] theorem applyPending_lastEvt (s : State)  : (applyPending s).lastEvt = s.lastEvt := rfl
@[simp] theorem applyPending_synced (s : State)  : (applyPending s).synced = s.synced := rfl
@[simp] theorem applyPending_buf (s : State)  : (applyPending s).buf = s.buf := rfl
@[simp] theorem applyPending_head (s : State)  : (applyPending s).head = s.head := rfl
@[simp] theorem applyPending_avg (s : State)  : (applyPending s).avg = s.avg := rfl
@[simp] theorem applyPending_lastEmit (s : State)  : (applyPending s).lastEmit = s.lastEmit := rfl
@[simp] theorem applyPending_rxst (s : State)  : (applyPending s).rxst = s.rxst := rfl
@[simp] theorem applyPending_rxhi (s : State)  : (applyPending s).rxhi = s.rxhi := rfl
@[simp] theorem applyPending_nowUs (s : State)  : (applyPending s).nowUs = s.nowUs := rfl
@[simp] theorem applyPending_nowMs (s : State)  : (applyPending s).nowMs = s.nowMs := rfl
@[simp] theorem applyPending_waiting (s : State)  : (applyPending s).waiting = s.waiting := rfl
@[simp] theorem applyPending_env (s : State)  : (applyPending s).env = s.env := rfl
@[simp] theorem applyPending_trace (s : State)  : (applyPending s).trace = s.trace := rfl

/-! ### rampStep -/

@[simp] theorem rampStep_cfg (s : State) (now : U32) : (rampStep now s).cfg = s.cfg := rfl
@[simp] theorem rampStep_chans (s : State) (now : U32) : (rampStep now s).chans = mapFrom (fun _ c => rampStepChan now c) 0 s.chans := rfl
@[simp] theorem rampStep_run (s : State) (now : U32) : (rampStep now s).run = s.run := rfl
@[simp] theorem rampStep_lastTick (s : State) (now : U32) : (rampStep now s).lastTick = s.lastTick := rfl
@[simp] theorem rampStep_refTime (s : State) (now : U32) : (rampStep now s).refTime = s.refTime := rfl
@[simp] theorem rampStep_lastEvt (s : State) (now : U32) : (rampStep now s).lastEvt = s.lastEvt := rfl
@[simp] theorem rampStep_synced (s : State) (now : U32) : (rampStep now s).synced = s.synced := rfl
@[simp] theorem rampStep_buf (s : State) (now : U32) : (rampStep now s).buf = s.buf := rfl
@[simp] theorem rampStep_head (s : State) (now : U32) : (rampStep now s).head = s.head := rfl
@[simp] theorem rampStep_avg (s : State) (now : U32) : (rampStep now s).avg = s.avg := rfl
@[simp] theorem rampStep_lastEmit (s : State) (now : U32) : (rampStep now s).lastEmit = s.lastEmit := rfl
@[simp] theorem rampStep_rxst (s : State) (now : U32) : (rampStep now s).rxst = s.rxst := rfl
@[simp] theorem rampStep_rxhi (s : State) (now : U32) : (rampStep now s).rxhi = s.rxhi := rfl
@[simp] theorem rampStep_nowUs (s : State) (now : U32) : (rampStep now s).nowUs = s.nowUs := rfl
@[simp] theorem rampStep_nowMs (s : State) (now : U32) : (rampStep now s).nowMs = s.nowMs := rfl
@[simp] theorem rampStep_waiting (s : State) (now : U32) : (rampStep now s).waiting = s.waiting := rfl
@[simp] theorem rampStep_env (s : State) (now : U32) : (rampStep now s).env = s.env := rfl
@[simp] theorem rampStep_trace (s : State) (now : U32) : (rampStep now s).trace = s.trace := rfl

/-! ### placeNext -/

@[simp] theorem placeNext_cfg (s : State) (e : Event) : (placeNext e s).cfg = s.cfg := rfl
@[simp] theorem placeNext_chans (s : State) (e : Event) : (placeNext e s).chans = s.chans := rfl
@[simp] theorem placeNext_run (s : State) (e : Event) : (placeNext e s).run = s.run := rfl
@[simp] theorem placeNext_lastTick (s : State) (e : Event) : (placeNext e s).lastTick = s.lastTick := rfl
@[simp] theorem placeNext_refTime (s : State) (e : Event) : (placeNext e s).refTime = s.refTime := rfl
@[simp] theorem placeNext_lastEvt (s : State) (e : Event) : (placeNext e s).lastEvt = s.lastEvt := rfl
@[simp] theorem placeNext_synced (s : State) (e : Event) : (placeNext e s).synced = s.synced := rfl
@[simp] theorem placeNext_buf (s : State) (e : Event) : (placeNext e s).buf = s.buf := rfl
@[simp] theorem placeNext_head (s : State) (e : Event) : (placeNext e s).head = s.head := rfl
@[simp] theorem placeNext_avg (s : State) (e : Event) : (placeNext e s).avg = s.avg := rfl
@[simp] theorem placeNext_lastEmit (s : State) (e : Event) : (placeNext e s).lastEmit = s.lastEmit := rfl
@[simp] theorem placeNext_rxst (s : State) (e : Event) : (placeNext e s).rxst = s.rxst := rfl
@[simp] theorem placeNext_rxhi (s : State) (e : Event) : (placeNext e s).rxhi = s.rxhi := rfl
@[simp] theorem placeNext_nowUs (s : State) (e : Event) : (placeNext e s).nowUs = s.nowUs := rfl
@[simp] theorem placeNext_nowMs (s : State) (e : Event) : (placeNext e s).nowMs = s.nowMs := rfl
@[simp] theorem placeNext_waiting (s : State) (e : Event) : (placeNext e s).waiting = ⟨e, s.nowUs, s.nowMs⟩ :: s.waiting := rfl
@[simp] theorem placeNext_env (s : State) (e : Event) : (placeNext e s).env = .serve :: s.env := rfl
@[simp] theorem placeNext_trace (s : State) (e : Event) : (placeNext e s).trace = s.trace := rfl

/-! ### resetBlock -/

@[simp] theorem resetBlock_cfg (s : State)  : (resetBlock s).cfg = s.cfg := rfl
@[simp] theorem resetBlock_chans (s : State)  : (resetBlock s).chans = (State.resetOf s.cfg).chans := rfl
@[simp] theorem resetBlock_run (s : State)  : (resetBlock s).run = (State.resetOf s.cfg).run := rfl
@[simp] theorem resetBlock_lastTick (s : State)  : (resetBlock s).lastTick = (State.resetOf s.cfg).lastTick := rfl
@[simp] theorem resetBlock_refTime (s : State)  : (resetBlock s).refTime = (State.resetOf s.cfg).refTime := rfl
@[simp] theorem resetBlock_lastEvt (s : State)  : (resetBlock s).lastEvt = (State.resetOf s.cfg).lastEvt := rfl
@[simp] theorem resetBlock_synced (s : State)  : (resetBlock s).synced = (State.resetOf s.cfg).synced := rfl
@[simp] theorem resetBlock_buf (s : State)  : (resetBlock s).buf = (State.resetOf s.cfg).buf := rfl
@[simp] theorem resetBlock_head (s : State)  : (resetBlock s).head = (State.resetOf s.cfg).head := rfl
@[simp] theorem resetBlock_avg (s : State)  : (resetBlock s).avg = (State.resetOf s.cfg).avg := rfl
@[simp] theorem resetBlock_lastEmit (s : State)  : (resetBlock s).lastEmit = (State.resetOf s.cfg).lastEmit := rfl
@[simp] theorem resetBlock_rxst (s : State)  : (resetBlock s).rxst = (State.resetOf s.cfg).rxst := rfl
@[simp] theorem resetBlock_rxhi (s : State)  : (resetBlock s).rxhi = (State.resetOf s.cfg).rxhi := rfl
@[simp] theorem resetBlock_nowUs (s : State)  : (resetBlock s).nowUs = s.nowUs := rfl
@[simp] theorem resetBlock_nowMs (s : State)  : (resetBlock s).nowMs = s.nowMs := rfl
@[simp] theorem resetBlock_waiting (s : State)  : (resetBlock s).waiting = (State.resetOf s.cfg).waiting := rfl
@[simp] theorem resetBlock_env (s : State)  : (resetBlock s).env = s.env := rfl
@[simp] theorem resetBlock_trace (s : State)  : (resetBlock s).trace = s.trace := rfl

/-! ### recompute -/

@[simp] theorem recompute_freq (c : Channel)  : (recompute c).freq = c.freq := rfl
@[simp] theorem recompute_duty (c : Channel)  : (recompute c).duty = c.duty := rfl
@[simp] theorem recompute_phase (c : Channel)  : (recompute c).phase = c.phase := rfl
@[simp] theorem recompute_period (c : Channel)  : (recompute c).period = c.period := rfl
@[simp] theorem recompute_startUs (c : Channel)  : (recompute c).startUs = (windowOf c.period c.duty c.phase).startUs := rfl
@[simp] theorem recompute_endUs (c : Channel)  : (recompute c).endUs = (windowOf c.period c.duty c.phase).endUs := rfl
@[simp] theorem recompute_wraps (c : Channel)  : (recompute c).wraps = (windowOf c.period c.duty c.phase).wraps := rfl
@[simp] theorem recompute_pos (c : Channel)  : (recompute c).pos = c.pos := rfl
@[simp] theorem recompute_out (c : Channel)  : (recompute c).out = c.out := rfl
@[simp] theorem recompute_pendFreq (c : Channel)  : (recompute c).pendFreq = c.pendFreq := rfl
@[simp] theorem recompute_pendDuty (c : Channel)  : (recompute c).pendDuty = c.pendDuty := rfl
@[simp] theorem recompute_pendPhase (c : Channel)  : (recompute c).pendPhase = c.pendPhase := rfl
@[simp] theorem recompute_dirtyF (c : Channel)  : (recompute c).dirtyF = c.dirtyF := rfl
@[simp] theorem recompute_dirtyD (c : Channel)  : (recompute c).dirtyD = c.dirtyD := rfl
@[simp] theorem recompute_dirtyP (c : Channel)  : (recompute c).dirtyP = c.dirtyP := rfl
@[simp] theorem recompute_rampF (c : Channel)  : (recompute c).rampF = c.rampF := rfl
@[simp] theorem recompute_rampD (c : Channel)  : (recompute c).rampD = c.rampD := rfl
@[simp] theorem recompute_rampP (c : Channel)  : (recompute c).rampP = c.rampP := rfl

/-! ### setFreq -/

@[simp] theorem setFreq_freq (c : Channel) (v : U16) : (setFreq v c).freq = v := rfl
@[simp] theorem setFreq_duty (c : Channel) (v : U16) : (setFreq v c).duty = c.duty := rfl
@[simp] theorem setFreq_phase (c : Channel) (v : U16) : (setFreq v c).phase = c.phase := rfl
@[simp] theorem setFreq_period (c : Channel) (v : U16) : (setFreq v c).period = periodOf v := rfl
@[simp] theorem setFreq_startUs (c : Channel) (v : U16) : (setFreq v c).startUs = (windowOf (periodOf v) c.duty c.phase).startUs := rfl
@[simp] theorem setFreq_endUs (c : Channel) (v : U16) : (setFreq v c).endUs = (windowOf (periodOf v) c.duty c.phase).endUs := rfl
@[simp] theorem setFreq_wraps (c : Channel) (v : U16) : (setFreq v c).wraps = (windowOf (periodOf v) c.duty c.phase).wraps := rfl
@[simp] theorem setFreq_pos (c : Channel) (v : U16) : (setFreq v c).pos = rescale c.pos c.period (periodOf v) := rfl
@[simp] theorem setFreq_out (c : Channel) (v : U16) : (setFreq v c).out = c.out := rfl
@[simp] theorem setFreq_pendFreq (c : Channel) (v : U16) : (setFreq v c).pendFreq = c.pendFreq := rfl
@[simp] theorem setFreq_pendDuty (c : Channel) (v : U16) : (setFreq v c).pendDuty = c.pendDuty := rfl
@[simp] theorem setFreq_pendPhase (c : Channel) (v : U16) : (setFreq v c).pendPhase = c.pendPhase := rfl
@[simp] theorem setFreq_dirtyF (c : Channel) (v : U16) : (setFreq v c).dirtyF = c.dirtyF := rfl
@[simp] theorem setFreq_dirtyD (c : Channel) (v : U16) : (setFreq v c).dirtyD = c.dirtyD := rfl
@[simp] theorem setFreq_dirtyP (c : Channel) (v : U16) : (setFreq v c).dirtyP = c.dirtyP := rfl
@[simp] theorem setFreq_rampF (c : Channel) (v : U16) : (setFreq v c).rampF = c.rampF := rfl
@[simp] theorem setFreq_rampD (c : Channel) (v : U16) : (setFreq v c).rampD = c.rampD := rfl
@[simp] theorem setFreq_rampP (c : Channel) (v : U16) : (setFreq v c).rampP = c.rampP := rfl

/-! ### setDuty -/

@[simp] theorem setDuty_freq (c : Channel) (v : U16) : (setDuty v c).freq = c.freq := rfl
@[simp] theorem setDuty_duty (c : Channel) (v : U16) : (setDuty v c).duty = clampDuty v := rfl
@[simp] theorem setDuty_phase (c : Channel) (v : U16) : (setDuty v c).phase = c.phase := rfl
@[simp] theorem setDuty_period (c : Channel) (v : U16) : (setDuty v c).period = c.period := rfl
@[simp] theorem setDuty_startUs (c : Channel) (v : U16) : (setDuty v c).startUs = (windowOf c.period (clampDuty v) c.phase).startUs := rfl
@[simp] theorem setDuty_endUs (c : Channel) (v : U16) : (setDuty v c).endUs = (windowOf c.period (clampDuty v) c.phase).endUs := rfl
@[simp] theorem setDuty_wraps (c : Channel) (v : U16) : (setDuty v c).wraps = (windowOf c.period (clampDuty v) c.phase).wraps := rfl
@[simp] theorem setDuty_pos (c : Channel) (v : U16) : (setDuty v c).pos = c.pos := rfl
@[simp] theorem setDuty_out (c : Channel) (v : U16) : (setDuty v c).out = c.out := rfl
@[simp] theorem setDuty_pendFreq (c : Channel) (v : U16) : (setDuty v c).pendFreq = c.pendFreq := rfl
@[simp] theorem setDuty_pendDuty (c : Channel) (v : U16) : (setDuty v c).pendDuty = c.pendDuty := rfl
@[simp] theorem setDuty_pendPhase (c : Channel) (v : U16) : (setDuty v c).pendPhase = c.pendPhase := rfl
@[simp] theorem setDuty_dirtyF (c : Channel) (v : U16) : (setDuty v c).dirtyF = c.dirtyF := rfl
@[simp] theorem setDuty_dirtyD (c : Channel) (v : U16) : (setDuty v c).dirtyD = c.dirtyD := rfl
@[simp] theorem setDuty_dirtyP (c : Channel) (v : U16) : (setDuty v c).dirtyP = c.dirtyP := rfl
@[simp] theorem setDuty_rampF (c : Channel) (v : U16) : (setDuty v c).rampF = c.rampF := rfl
@[simp] theorem setDuty_rampD (c : Channel) (v : U16) : (setDuty v c).rampD = c.rampD := rfl
@[simp] theorem setDuty_rampP (c : Channel) (v : U16) : (setDuty v c).rampP = c.rampP := rfl

/-! ### setPhase -/

@[simp] theorem setPhase_freq (c : Channel) (v : U16) : (setPhase v c).freq = c.freq := rfl
@[simp] theorem setPhase_duty (c : Channel) (v : U16) : (setPhase v c).duty = c.duty := rfl
@[simp] theorem setPhase_phase (c : Channel) (v : U16) : (setPhase v c).phase = clampPhase v := rfl
@[simp] theorem setPhase_period (c : Channel) (v : U16) : (setPhase v c).period = c.period := rfl
@[simp] theorem setPhase_startUs (c : Channel) (v : U16) : (setPhase v c).startUs = (windowOf c.period c.duty (clampPhase v)).startUs := rfl
@[simp] theorem setPhase_endUs (c : Channel) (v : U16) : (setPhase v c).endUs = (windowOf c.period c.duty (clampPhase v)).endUs := rfl
@[simp] theorem setPhase_wraps (c : Channel) (v : U16) : (setPhase v c).wraps = (windowOf c.period c.duty (clampPhase v)).wraps := rfl
@[simp] theorem setPhase_pos (c : Channel) (v : U16) : (setPhase v c).pos = c.pos := rfl
@[simp] theorem setPhase_out (c : Channel) (v : U16) : (setPhase v c).out = c.out := rfl
@[simp] theorem setPhase_pendFreq (c : Channel) (v : U16) : (setPhase v c).pendFreq = c.pendFreq := rfl
@[simp] theorem setPhase_pendDuty (c : Channel) (v : U16) : (setPhase v c).pendDuty = c.pendDuty := rfl
@[simp] theorem setPhase_pendPhase (c : Channel) (v : U16) : (setPhase v c).pendPhase = c.pendPhase := rfl
@[simp] theorem setPhase_dirtyF (c : Channel) (v : U16) : (setPhase v c).dirtyF = c.dirtyF := rfl
@[simp] theorem setPhase_dirtyD (c : Channel) (v : U16) : (setPhase v c).dirtyD = c.dirtyD := rfl
@[simp] theorem setPhase_dirtyP (c : Channel) (v : U16) : (setPhase v c).dirtyP = c.dirtyP := rfl
@[simp] theorem setPhase_rampF (c : Channel) (v : U16) : (setPhase v c).rampF = c.rampF := rfl
@[simp] theorem setPhase_rampD (c : Channel) (v : U16) : (setPhase v c).rampD = c.rampD := rfl
@[simp] theorem setPhase_rampP (c : Channel) (v : U16) : (setPhase v c).rampP = c.rampP := rfl

/-! ### clearRact .freq -/

@[simp] theorem clearRact_freq_freq (c : Channel) : (clearRact .freq c).freq = c.freq := rfl
@[simp] theorem clearRact_freq_duty (c : Channel) : (clearRact .freq c).duty = c.duty := rfl
@[simp] theorem clearRact_freq_phase (c : Channel) : (clearRact .freq c).phase = c.phase := rfl
@[simp] theorem clearRact_freq_period (c : Channel) : (clearRact .freq c).period = c.period := rfl
@[simp] theorem clearRact_freq_startUs (c : Channel) : (clearRact .freq c).startUs = c.startUs := rfl
@[simp] theorem clearRact_freq_endUs (c : Channel) : (clearRact .freq c).endUs = c.endUs := rfl
@[simp] theorem clearRact_freq_wraps (c : Channel) : (clearRact .freq c).wraps = c.wraps := rfl
@[simp] theorem clearRact_freq_pos (c : Channel) : (clearRact .freq c).pos = c.pos := rfl
@[simp] theorem clearRact_freq_out (c : Channel) : (clearRact .freq c).out = c.out := rfl
@[simp] theorem clearRact_freq_pendFreq (c : Channel) : (clearRact .freq c).pendFreq = c.pendFreq := rfl
@[simp] theorem clearRact_freq_pendDuty (c : Channel) : (clearRact .freq c).pendDuty = c.pendDuty := rfl
@[simp] theorem clearRact_freq_pendPhase (c : Channel) : (clearRact .freq c).pendPhase = c.pendPhase := rfl
@[simp] theorem clearRact_freq_dirtyF (c : Channel) : (clearRact .freq c).dirtyF = c.dirtyF := rfl
@[simp] theorem clearRact_freq_dirtyD (c : Channel) : (clearRact .freq c).dirtyD = c.dirtyD := rfl
@[simp] theorem clearRact_freq_dirtyP (c : Channel) : (clearRact .freq c).dirtyP = c.dirtyP := rfl
@[simp] theorem clearRact_freq_rampF (c : Channel) : (clearRact .freq c).rampF = { c.rampF with act := false } := rfl
@[simp] theorem clearRact_freq_rampD (c : Channel) : (clearRact .freq c).rampD = c.rampD := rfl
@[simp] theorem clearRact_freq_rampP (c : Channel) : (clearRact .freq c).rampP = c.rampP := rfl

/-! ### setRamp .freq -/

@[simp] theorem Channel.setRamp_freq_freq (c : Channel) (r : Ramp) : (c.setRamp r .freq).freq = c.freq := rfl
@[simp] theorem Channel.setRamp_freq_duty (c : Channel) (r : Ramp) : (c.setRamp r .freq).duty = c.duty := rfl
@[simp] theorem Channel.setRamp_freq_phase (c : Channel) (r : Ramp) : (c.setRamp r .freq).phase = c.phase := rfl
@[simp] theorem Channel.setRamp_freq_period (c : Channel) (r : Ramp) : (c.setRamp r .freq).period = c.period := rfl
@[simp] theorem Channel.setRamp_freq_startUs (c : Channel) (r : Ramp) : (c.setRamp r .freq).startUs = c.startUs := rfl
@[simp] theorem Channel.setRamp_freq_endUs (c : Channel) (r : Ramp) : (c.setRamp r .freq).endUs = c.endUs := rfl
@[simp] theorem Channel.setRamp_freq_wraps (c : Channel) (r : Ramp) : (c.setRamp r .freq).wraps = c.wraps := rfl
@[simp] theorem Channel.setRamp_freq_pos (c : Channel) (r : Ramp) : (c.setRamp r .freq).pos = c.pos := rfl
@[simp] theorem Channel.setRamp_freq_out (c : Channel) (r : Ramp) : (c.setRamp r .freq).out = c.out := rfl
@[simp] theorem Channel.setRamp_freq_pendFreq (c : Channel) (r : Ramp) : (c.setRamp r .freq).pendFreq = c.pendFreq := rfl
@[simp] theorem Channel.setRamp_freq_pendDuty (c : Channel) (r : Ramp) : (c.setRamp r .freq).pendDuty = c.pendDuty := rfl
@[simp] theorem Channel.setRamp_freq_pendPhase (c : Channel) (r : Ramp) : (c.setRamp r .freq).pendPhase = c.pendPhase := rfl
@[simp] theorem Channel.setRamp_freq_dirtyF (c : Channel) (r : Ramp) : (c.setRamp r .freq).dirtyF = c.dirtyF := rfl
@[simp] theorem Channel.setRamp_freq_dirtyD (c : Channel) (r : Ramp) : (c.setRamp r .freq).dirtyD = c.dirtyD := rfl
@[simp] theorem Channel.setRamp_freq_dirtyP (c : Channel) (r : Ramp) : (c.setRamp r .freq).dirtyP = c.dirtyP := rfl
@[simp] theorem Channel.setRamp_freq_rampF (c : Channel) (r : Ramp) : (c.setRamp r .freq).rampF = r := rfl
@[simp] theorem Channel.setRamp_freq_rampD (c : Channel) (r : Ramp) : (c.setRamp r .freq).rampD = c.rampD := rfl
@[simp] theorem Channel.setRamp_freq_rampP (c : Channel) (r : Ramp) : (c.setRamp r .freq).rampP = c.rampP := rfl

/-! ### clearRact .duty -/

@[simp] theorem clearRact_duty_freq (c : Channel) : (clearRact .duty c).freq = c.freq := rfl
@[simp] theorem clearRact_duty_duty (c : Channel) : (clearRact .duty c).duty = c.duty := rfl
@[simp] theorem clearRact_duty_phase (c : Channel) : (clearRact .duty c).phase = c.phase := rfl
@[simp] theorem clearRact_duty_period (c : Channel) : (clearRact .duty c).period = c.period := rfl
@[simp] theorem clearRact_duty_startUs (c : Channel) : (clearRact .duty c).startUs = c.startUs := rfl
@[simp] theorem clearRact_duty_endUs (c : Channel) : (clearRact .duty c).endUs = c.endUs := rfl
@[simp] theorem clearRact_duty_wraps (c : Channel) : (clearRact .duty c).wraps = c.wraps := rfl
@[simp] theorem clearRact_duty_pos (c : Channel) : (clearRact .duty c).pos = c.pos := rfl
@[simp] theorem clearRact_duty_out (c : Channel) : (clearRact .duty c).out = c.out := rfl
@[simp] theorem clearRact_duty_pendFreq (c : Channel) : (clearRact .duty c).pendFreq = c.pendFreq := rfl
@[simp] theorem clearRact_duty_pendDuty (c : Channel) : (clearRact .duty c).pendDuty = c.pendDuty := rfl
@[simp] theorem clearRact_duty_pendPhase (c : Channel) : (clearRact .duty c).pendPhase = c.pendPhase := rfl
@[simp] theorem clearRact_duty_dirtyF (c : Channel) : (clearRact .duty c).dirtyF = c.dirtyF := rfl
@[simp] theorem clearRact_duty_dirtyD (c : Channel) : (clearRact .duty c).dirtyD = c.dirtyD := rfl
@[simp] theorem clearRact_duty_dirtyP (c : Channel) : (clearRact .duty c).dirtyP = c.dirtyP := rfl
@[simp] theorem clearRact_duty_rampF (c : Channel) : (clearRact .duty c).rampF = c.rampF := rfl
@[simp] theorem clearRact_duty_rampD (c : Channel) : (clearRact .duty c).rampD = { c.rampD with act := false } := rfl
@[simp] theorem clearRact_duty_rampP (c : Channel) : (clearRact .duty c).rampP = c.rampP := rfl

/-! ### setRamp .duty -/

@[simp] theorem Channel.setRamp_duty_freq (c : Channel) (r : Ramp) : (c.setRamp r .duty).freq = c.freq := rfl
@[simp] theorem Channel.setRamp_duty_duty (c : Channel) (r : Ramp) : (c.setRamp r .duty).duty = c.duty := rfl
@[simp] theorem Channel.setRamp_duty_phase (c : Channel) (r : Ramp) : (c.setRamp r .duty).phase = c.phase := rfl
@[simp] theorem Channel.setRamp_duty_period (c : Channel) (r : Ramp) : (c.setRamp r .duty).period = c.period := rfl
@[simp] theorem Channel.setRamp_duty_startUs (c : Channel) (r : Ramp) : (c.setRamp r .duty).startUs = c.startUs := rfl
@[simp] theorem Channel.setRamp_duty_endUs (c : Channel) (r : Ramp) : (c.setRamp r .duty).endUs = c.endUs := rfl
@[simp] theorem Channel.setRamp_duty_wraps (c : Channel) (r : Ramp) : (c.setRamp r .duty).wraps = c.wraps := rfl
@[simp] theorem Channel.setRamp_duty_pos (c : Channel) (r : Ramp) : (c.setRamp r .duty).pos = c.pos := rfl
@[simp] theorem Channel.setRamp_duty_out (c : Channel) (r : Ramp) : (c.setRamp r .duty).out = c.out := rfl
@[simp] theorem Channel.setRamp_duty_pendFreq (c : Channel) (r : Ramp) : (c.setRamp r .duty).pendFreq = c.pendFreq := rfl
@[simp] theorem Channel.setRamp_duty_pendDuty (c : Channel) (r : Ramp) : (c.setRamp r .duty).pendDuty = c.pendDuty := rfl
@[simp] theorem Channel.setRamp_duty_pendPhase (c : Channel) (r : Ramp) : (c.setRamp r .duty).pendPhase = c.pendPhase := rfl
@[simp] theorem Channel.setRamp_duty_dirtyF (c : Channel) (r : Ramp) : (c.setRamp r .duty).dirtyF = c.dirtyF := rfl
@[simp] theorem Channel.setRamp_duty_dirtyD (c : Channel) (r : Ramp) : (c.setRamp r .duty).dirtyD = c.dirtyD := rfl
@[simp] theorem Channel.setRamp_duty_dirtyP (c : Channel) (r : Ramp) : (c.setRamp r .duty).dirtyP = c.dirtyP := rfl
@[simp] theorem Channel.setRamp_duty_rampF (c : Channel) (r : Ramp) : (c.setRamp r .duty).rampF = c.rampF := rfl
@[simp] theorem Channel.setRamp_duty_rampD (c : Channel) (r : Ramp) : (c.setRamp r .duty).rampD = r := rfl
@[simp] theorem Channel.setRamp_duty_rampP (c : Channel) (r : Ramp) : (c.setRamp r .duty).rampP = c.rampP := rfl

/-! ### clearRact .phase -/

@[simp] theorem clearRact_phase_freq (c : Channel) : (clearRact .phase c).freq = c.freq := rfl
@[simp] theorem clearRact_phase_duty (c : Channel) : (clearRact .phase c).duty = c.duty := rfl
@[simp] theorem clearRact_phase_phase (c : Channel) : (clearRact .phase c).phase = c.phase := rfl
@[simp] theorem clearRact_phase_period (c : Channel) : (clearRact .phase c).period = c.period := rfl
@[simp] theorem clearRact_phase_startUs (c : Channel) : (clearRact .phase c).startUs = c.startUs := rfl
@[simp] theorem clearRact_phase_endUs (c : Channel) : (clearRact .phase c).endUs = c.endUs := rfl
@[simp] theorem clearRact_phase_wraps (c : Channel) : (clearRact .phase c).wraps = c.wraps := rfl
@[simp] theorem clearRact_phase_pos (c : Channel) : (clearRact .phase c).pos = c.pos := rfl
@[simp] theorem clearRact_phase_out (c : Channel) : (clearRact .phase c).out = c.out := rfl
@[simp] theorem clearRact_phase_pendFreq (c : Channel) : (clearRact .phase c).pendFreq = c.pendFreq := rfl
@[simp] theorem clearRact_phase_pendDuty (c : Channel) : (clearRact .phase c).pendDuty = c.pendDuty := rfl
@[simp] theorem clearRact_phase_pendPhase (c : Channel) : (clearRact .phase c).pendPhase = c.pendPhase := rfl
@[simp] theorem clearRact_phase_dirtyF (c : Channel) : (clearRact .phase c).dirtyF = c.dirtyF := rfl
@[simp] theorem clearRact_phase_dirtyD (c : Channel) : (clearRact .phase c).dirtyD = c.dirtyD := rfl
@[simp] theorem clearRact_phase_dirtyP (c : Channel) : (clearRact .phase c).dirtyP = c.dirtyP := rfl
@[simp] theorem clearRact_phase_rampF (c : Channel) : (clearRact .phase c).rampF = c.rampF := rfl
@[simp] theorem clearRact_phase_rampD (c : Channel) : (clearRact .phase c).rampD = c.rampD := rfl
@[simp] theorem clearRact_phase_rampP (c : Channel) : (clearRact .phase c).rampP = { c.rampP with act := false } := rfl

/-! ### setRamp .phase -/

@[simp] theorem Channel.setRamp_phase_freq (c : Channel) (r : Ramp) : (c.setRamp r .phase).freq = c.freq := rfl
@[simp] theorem Channel.setRamp_phase_duty (c : Channel) (r : Ramp) : (c.setRamp r .phase).duty = c.duty := rfl
@[simp] theorem Channel.setRamp_phase_phase (c : Channel) (r : Ramp) : (c.setRamp r .phase).phase = c.phase := rfl
@[simp] theorem Channel.setRamp_phase_period (c : Channel) (r : Ramp) : (c.setRamp r .phase).period = c.period := rfl
@[simp] theorem Channel.setRamp_phase_startUs (c : Channel) (r : Ramp) : (c.setRamp r .phase).startUs = c.startUs := rfl
@[simp] theorem Channel.setRamp_phase_endUs (c : Channel) (r : Ramp) : (c.setRamp r .phase).endUs = c.endUs := rfl
@[simp] theorem Channel.setRamp_phase_wraps (c : Channel) (r : Ramp) : (c.setRamp r .phase).wraps = c.wraps := rfl
@[simp] theorem Channel.setRamp_phase_pos (c : Channel) (r : Ramp) : (c.setRamp r .phase).pos = c.pos := rfl
@[simp] theorem Channel.setRamp_phase_out (c : Channel) (r : Ramp) : (c.setRamp r .phase).out = c.out := rfl
@[simp] theorem Channel.setRamp_phase_pendFreq (c : Channel) (r : Ramp) : (c.setRamp r .phase).pendFreq = c.pendFreq := rfl
@[simp] theorem Channel.setRamp_phase_pendDuty (c : Channel) (r : Ramp) : (c.setRamp r .phase).pendDuty = c.pendDuty := rfl
@[simp] theorem Channel.setRamp_phase_pendPhase (c : Channel) (r : Ramp) : (c.setRamp r .phase).pendPhase = c.pendPhase := rfl
@[simp] theorem Channel.setRamp_phase_dirtyF (c : Channel) (r : Ramp) : (c.setRamp r .phase).dirtyF = c.dirtyF := rfl
@[simp] theorem Channel.setRamp_phase_dirtyD (c : Channel) (r : Ramp) : (c.setRamp r .phase).dirtyD = c.dirtyD := rfl
@[simp] theorem Channel.setRamp_phase_dirtyP (c : Channel) (r : Ramp) : (c.setRamp r .phase).dirtyP = c.dirtyP := rfl
@[simp] theorem Channel.setRamp_phase_rampF (c : Channel) (r : Ramp) : (c.setRamp r .phase).rampF = c.rampF := rfl
@[simp] theorem Channel.setRamp_phase_rampD (c : Channel) (r : Ramp) : (c.setRamp r .phase).rampD = c.rampD := rfl
@[simp] theorem Channel.setRamp_phase_rampP (c : Channel) (r : Ramp) : (c.setRamp r .phase).rampP = r := rfl

/-! ### tickChan -/

@[simp] theorem tickChan_freq (c : Channel) (p : Params) (now dt r : U32) (k : Nat) : (tickChan p now dt r k c).freq = c.freq := rfl
@[simp] theorem tickChan_duty (c : Channel) (p : Params) (now dt r : U32) (k : Nat) : (tickChan p now dt r k c).duty = c.duty := rfl
@[simp] theorem tickChan_phase (c : Channel) (p : Params) (now dt r : U32) (k : Nat) : (tickChan p now dt r k c).phase = c.phase := rfl
@[simp] theorem tickChan_period (c : Channel) (p : Params) (now dt r : U32) (k : Nat) : (tickChan p now dt r k c).period = c.period := rfl
@[simp] theorem tickChan_startUs (c : Channel) (p : Params) (now dt r : U32) (k : Nat) : (tickChan p now dt r k c).startUs = c.startUs := rfl
@[simp] theorem tickChan_endUs (c : Channel) (p : Params) (now dt r : U32) (k : Nat) : (tickChan p now dt r k c).endUs = c.endUs := rfl
@[simp] theorem tickChan_wraps (c : Channel) (p : Params) (now dt r : U32) (k : Nat) : (tickChan p now dt r k c).wraps = c.wraps := rfl
@[simp] theorem tickChan_pos (c : Channel) (p : Params) (now dt r : U32) (k : Nat) : (tickChan p now dt r k c).pos = tickPos p now dt r k c := rfl
@[simp] theorem tickChan_out (c : Channel) (p : Params) (now dt r : U32) (k : Nat) : (tickChan p now dt r k c).out = activeAt (tickPos p now dt r k c) c.startUs c.endUs c.wraps := rfl
@[simp] theorem tickChan_pendFreq (c : Channel) (p : Params) (now dt r : U32) (k : Nat) : (tickChan p now dt r k c).pendFreq = c.pendFreq := rfl
@[simp] theorem tickChan_pendDuty (c : Channel) (p : Params) (now dt r : U32) (k : Nat) : (tickChan p now dt r k c).pendDuty = c.pendDuty := rfl
@[simp] theorem tickChan_pendPhase (c : Channel) (p : Params) (now dt r : U32) (k : Nat) : (tickChan p now dt r k c).pendPhase = c.pendPhase := rfl
@[simp] theorem tickChan_dirtyF (c : Channel) (p : Params) (now dt r : U32) (k : Nat) : (tickChan p now dt r k c).dirtyF = c.dirtyF := rfl
@[simp] theorem tickChan_dirtyD (c : Channel) (p : Params) (now dt r : U32) (k : Nat) : (tickChan p now dt r k c).dirtyD = c.dirtyD := rfl
@[simp] theorem tickChan_dirtyP (c : Channel) (p : Params) (now dt r : U32) (k : Nat) : (tickChan p now dt r k c).dirtyP = c.dirtyP := rfl
@[simp] theorem tickChan_rampF (c : Channel) (p : Params) (now dt r : U32) (k : Nat) : (tickChan p now dt r k c).rampF = c.rampF := rfl
@[simp] theorem tickChan_rampD (c : Channel) (p : Params) (now dt r : U32) (k : Nat) : (tickChan p now dt r k c).rampD = c.rampD := rfl
@[simp] theorem tickChan_rampP (c : Channel) (p : Params) (now dt r : U32) (k : Nat) : (tickChan p now dt r k c).rampP = c.rampP := rfl

end Sys2Proof.Machine
end

