-- ==== Sys2Proof/Laws/Setters.lean ====
section
/-! SUPPORT. What the Channel Timing Model and the setters do (40_timing_model.md R61, R62; 42_parameter_control.md
R77, R78, R81, R82): exact results, nothing truncated, on channels that obey 10_state.md R32. -/

namespace Sys2Proof.Machine

open Sys2Proof.Safety

theorem periodOf_toNat (f : U16) : (periodOf f).toNat = 10000000 / f.toNat := by
  refine u32_toNat_of_lt (lt_of_le_of_lt (Nat.div_le_self _ _) (by norm_num))

theorem periodOf_le (f : U16) : (periodOf f).toNat ≤ 10000000 := by
  rw [periodOf_toNat]; exact Nat.div_le_self _ _

theorem periodOf_ge {f : U16} (h : 1 ≤ f.toNat) : 152 ≤ (periodOf f).toNat := by
  rw [periodOf_toNat, Nat.le_div_iff_mul_le (by omega)]
  have := f.isLt; omega

theorem clampDuty_toNat (v : U16) : (clampDuty v).toNat = min v.toNat 10000 := by
  exact u16_toNat_of_lt (lt_of_le_of_lt (min_le_right _ _) (by norm_num))

theorem clampPhase_toNat (v : U16) : (clampPhase v).toNat = min v.toNat 9999 := by
  exact u16_toNat_of_lt (lt_of_le_of_lt (min_le_right _ _) (by norm_num))

theorem clampDuty_le (v : U16) : (clampDuty v).toNat ≤ 10000 := by
  rw [clampDuty_toNat]; exact min_le_right _ _

theorem clampPhase_le (v : U16) : (clampPhase v).toNat ≤ 9999 := by
  rw [clampPhase_toNat]; exact min_le_right _ _

/-- `width <= P` (40_timing_model.md R62). -/
theorem width_le {P d : Nat} (hd : d ≤ 10000) : P * d / 10000 ≤ P := mul_div_le_of_le hd

/-- `start < P` (40_timing_model.md R62). -/
theorem start_lt {P q : Nat} (hP : 0 < P) (hq : q ≤ 9999) : P * q / 10000 < P := by
  rw [Nat.div_lt_iff_lt_mul (by norm_num)]
  exact Nat.mul_lt_mul_of_pos_left (by omega) hP

/-- `recompute` (40_timing_model.md R62). -/
theorem recompute_window {c : Channel} (hP : c.period.toNat ≤ 10000000) (hd : c.duty.toNat ≤ 10000)
    (hq : c.phase.toNat ≤ 9999) : WindowIs (recompute c) := by
  have hw := width_le (P := c.period.toNat) hd
  have hs : c.period.toNat * c.phase.toNat / 10000 ≤ c.period.toNat := mul_div_le_of_le (by omega)
  by_cases hlt : c.period.toNat < c.period.toNat * c.phase.toNat / 10000 + c.period.toNat * c.duty.toNat / 10000
  · have hst : (recompute c).startUs.toNat = c.period.toNat * c.phase.toNat / 10000 := by
      simp only [recompute_startUs, windowOf, if_pos hlt]; exact u32_toNat_of_lt (by omega)
    refine ⟨hst, ?_⟩
    rw [if_pos (by rw [hst]; exact hlt), hst]
    simp only [recompute_endUs, recompute_wraps, recompute_period, recompute_duty, windowOf, if_pos hlt]
    exact ⟨by rw [u32_toNat_of_lt (by omega)]; omega, trivial⟩
  · have hst : (recompute c).startUs.toNat = c.period.toNat * c.phase.toNat / 10000 := by
      simp only [recompute_startUs, windowOf, if_neg hlt]; exact u32_toNat_of_lt (by omega)
    refine ⟨hst, ?_⟩
    rw [if_neg (by rw [hst]; exact hlt), hst]
    simp only [recompute_endUs, recompute_wraps, recompute_period, recompute_duty, windowOf, if_neg hlt]
    exact ⟨u32_toNat_of_lt (by omega), trivial⟩

/-- `0 <= START < PERIOD` (10_state.md R32 item 6). -/
theorem windowIs_start_lt {c : Channel} (h : WindowIs c) (hP : 0 < c.period.toNat) (hq : c.phase.toNat ≤ 9999) :
    c.startUs.toNat < c.period.toNat := by
  rw [h.1]; exact start_lt hP hq

/-- `0 <= END <= PERIOD` (10_state.md R32 item 6). -/
theorem windowIs_end_le {c : Channel} (h : WindowIs c) (hP : 0 < c.period.toNat) (hq : c.phase.toNat ≤ 9999)
    (hd : c.duty.toNat ≤ 10000) : c.endUs.toNat ≤ c.period.toNat := by
  have hs := windowIs_start_lt h hP hq
  have hw := width_le (P := c.period.toNat) hd
  have h2 := h.2
  split at h2 <;> omega

/-- The rescale of a position inside its period lies inside the new period (42_parameter_control.md R78). -/
theorem rescale_lt {a old new : Nat} (ha : a < old) (hn : 0 < new) : a * new / old < new := by
  rw [Nat.div_lt_iff_lt_mul (by omega), Nat.mul_comm new old]
  exact Nat.mul_lt_mul_of_pos_right ha hn

theorem rescale_toNat {pos old new : U32} (h : pos.toNat < old.toNat) :
    (rescale pos old new).toNat = pos.toNat * new.toNat / old.toNat := by
  have hn := new.isLt
  rcases Nat.eq_zero_or_pos new.toNat with h0 | h0
  · simp [rescale, h0]
  · exact u32_toNat_of_lt (lt_trans (rescale_lt h h0) hn)

/-- `setFreq` (42_parameter_control.md R77). -/
theorem setFreq_spec {c : Channel} (v : U16) (hd : c.duty.toNat ≤ 10000) (hq : c.phase.toNat ≤ 9999)
    (hp : c.pos.toNat < c.period.toNat) : FreqSet v c (setFreq v c) := by
  refine ⟨rfl, ?_, ?_, ?_⟩
  · rw [setFreq_period, periodOf_toNat]
  · rw [setFreq_pos, setFreq_period, rescale_toNat hp]
  · exact recompute_window (c := { c with pos := rescale c.pos c.period (periodOf v), freq := v, period := periodOf v })
      (periodOf_le v) hd hq

/-- `setDuty` (42_parameter_control.md R81). -/
theorem setDuty_spec {c : Channel} (v : U16) (hP : c.period.toNat ≤ 10000000) (hq : c.phase.toNat ≤ 9999) :
    DutySet v c (setDuty v c) :=
  ⟨rfl, clampDuty_toNat v, recompute_window (c := { c with duty := clampDuty v }) hP (clampDuty_le v) hq⟩

/-- `setPhase` (42_parameter_control.md R82). -/
theorem setPhase_spec {c : Channel} (v : U16) (hP : c.period.toNat ≤ 10000000) (hd : c.duty.toNat ≤ 10000) :
    PhaseSet v c (setPhase v c) :=
  ⟨rfl, clampPhase_toNat v, recompute_window (c := { c with phase := clampPhase v }) hP hd (clampPhase_le v)⟩

/-- What every setter needs of a channel. -/
theorem setParam_spec {q : Params} {c : Channel} (hc : ChannelInv q c) (p : Parameter) (v : U16) :
    ParamSet p v c (setParam p v c) := by
  cases p
  · exact setFreq_spec v hc.duty hc.phase hc.pos_lt
  · exact setDuty_spec v hc.period_le hc.phase
  · exact setPhase_spec v hc.period_le hc.duty

theorem clearRact_spec (p : Parameter) (c : Channel) : RampEnded p c (clearRact p c) := by
  cases p <;> rfl

/-- A setter and the end of the ramp (44_sequencing.md R116). -/
theorem setAndEnd_spec {q : Params} {c : Channel} (hc : ChannelInv q c) (p : Parameter) (v : U16) :
    SetAndEnd p v c (clearRact p (setParam p v c)) :=
  ⟨_, setParam_spec hc p v, clearRact_spec p _⟩

end Sys2Proof.Machine
end

