-- ==== Sys2Proof/Laws/ChannelOps.lean ====
section
/-! SUPPORT. What the sequencing procedures do to one channel (44_sequencing.md R108, R109, R114), and that the
setters and the sequencing procedures keep the invariants of a channel (10_state.md R32). -/

namespace Sys2Proof.Machine

open Sys2Proof.Safety

/-! ## What a legal parameter record gives -/

theorem legal_freqMin {p : Params} (h : p.legal = true) : 1 ≤ p.freqMin.toNat := by
  simp only [Params.legal, Bool.and_eq_true, Params.freqLimitsOk, decide_eq_true_eq] at h
  omega

theorem legal_nbuf {p : Params} (h : p.legal = true) : 1 ≤ p.nbuf ∧ p.nbuf ≤ 64 := by
  simp only [Params.legal, Bool.and_eq_true, Params.nbufOk, decide_eq_true_eq] at h
  omega

theorem legal_nch {p : Params} (h : p.legal = true) : 1 ≤ p.nch ∧ p.nch ≤ 16 := by
  simp only [Params.legal, Bool.and_eq_true, Params.nchOk, decide_eq_true_eq] at h
  omega

theorem badFreq_eq_false {p : Params} {v : U16} : badFreq p v = false ↔ FreqInRange p v := by
  simp [badFreq, FreqInRange, Bool.or_eq_false_iff]

theorem badFreq_eq_true {p : Params} {v : U16} :
    badFreq p v = true ↔ v.toNat < p.freqMin.toNat ∨ p.freqMax.toNat < v.toNat := by
  simp [badFreq]

theorem badChannel_eq_true {p : Params} {ch : Byte} : badChannel p ch = true ↔ p.nch ≤ ch.toNat := by
  simp [badChannel]

theorem freqNoOp_eq_true {p : Params} : freqNoOp p = true ↔ p.role = .client := by simp [freqNoOp]

theorem phaseNoOp_eq_true {p : Params} : phaseNoOp p = true ↔ p.role = .master := by simp [phaseNoOp]

/-! ## The setters keep a channel's invariants -/

theorem setFreq_keeps {p : Params} {c : Channel} {v : U16} (hp : p.legal = true) (hc : ChannelInv p c)
    (hv : FreqInRange p v) : ChannelInv p (setFreq v c) := by
  have h1 : 1 ≤ v.toNat := le_trans (legal_freqMin hp) hv.1
  have hge := periodOf_ge h1
  have hw : WindowIs (setFreq v c) := (setFreq_spec v hc.duty hc.phase hc.pos_lt).2.2.2
  exact
    { freq := hv, duty := hc.duty, phase := hc.phase, masterPhase := hc.masterPhase
      period := periodOf_toNat v, period_ge := hge, period_le := periodOf_le v, window := hw
      start_lt := windowIs_start_lt hw (lt_of_lt_of_le (by norm_num) hge) hc.phase
      end_le := windowIs_end_le hw (lt_of_lt_of_le (by norm_num) hge) hc.phase hc.duty
      pos_lt := by
        rw [setFreq_pos, setFreq_period, rescale_toNat hc.pos_lt]
        exact rescale_lt hc.pos_lt (by omega)
      clientF := hc.clientF, masterP := hc.masterP, pendDuty := hc.pendDuty, pendPhase := hc.pendPhase
      pendFreq := hc.pendFreq, targetDuty := hc.targetDuty, targetPhase := hc.targetPhase
      rampFreq := hc.rampFreq, dirtyF_pend := hc.dirtyF_pend }

theorem setDuty_keeps {p : Params} {c : Channel} (v : U16) (hc : ChannelInv p c) :
    ChannelInv p (setDuty v c) := by
  have hP : 0 < c.period.toNat := lt_of_lt_of_le (by norm_num) hc.period_ge
  have hw : WindowIs (setDuty v c) := (setDuty_spec v hc.period_le hc.phase).2.2
  exact { hc with
    duty := clampDuty_le v, window := hw, start_lt := windowIs_start_lt hw hP hc.phase
    end_le := windowIs_end_le hw hP hc.phase (clampDuty_le v) }

theorem setPhase_keeps {p : Params} {c : Channel} (v : U16) (hm : p.role ≠ .master) (hc : ChannelInv p c) :
    ChannelInv p (setPhase v c) := by
  have hP : 0 < c.period.toNat := lt_of_lt_of_le (by norm_num) hc.period_ge
  have hw : WindowIs (setPhase v c) := (setPhase_spec v hc.period_le hc.duty).2.2
  exact { hc with
    phase := clampPhase_le v, masterPhase := fun h => absurd h hm, window := hw
    start_lt := windowIs_start_lt hw hP (clampPhase_le v)
    end_le := windowIs_end_le hw hP (clampPhase_le v) hc.duty }

/-- The value a setter may be given: a legal frequency; any duty; any phase unless the node is a master. -/
def ValueOk (p : Params) (v : U16) : Parameter → Prop
  | .freq => FreqInRange p v
  | .duty => True
  | .phase => p.role ≠ .master

theorem setParam_keeps {q : Params} {c : Channel} {p : Parameter} {v : U16} (hq : q.legal = true)
    (hc : ChannelInv q c) (hv : ValueOk q v p) : ChannelInv q (setParam p v c) := by
  cases p
  · exact setFreq_keeps hq hc hv
  · exact setDuty_keeps v hc
  · exact setPhase_keeps v hv hc

theorem clearRact_keeps {q : Params} {c : Channel} (p : Parameter) (hc : ChannelInv q c) :
    ChannelInv q (clearRact p c) := by
  cases p
  · exact { hc with clientF := fun h => ⟨rfl, (hc.clientF h).2⟩, rampFreq := fun h => by simp at h }
  · exact { hc with }
  · exact { hc with masterP := fun h => ⟨rfl, (hc.masterP h).2⟩ }

/-! ## startRamp -/

/-- `startRamp` (44_sequencing.md R109). -/
theorem startRamp_spec {q : Params} {c : Channel} (hc : ChannelInv q c) (p : Parameter) (tgt dur dly : U16)
    (now : U32) : RampStarted p tgt dur dly now c (startRamp p tgt dur dly now c) := by
  have key : (dur = 0 ∧ dly = 0) ↔ (dur.toNat = 0 ∧ dly.toNat = 0) := by
    simp [BitVec.toNat_eq]
  unfold RampStarted startRamp
  by_cases h : dur = 0 ∧ dly = 0
  · rw [if_pos h, if_pos (key.mp h)]; exact setAndEnd_spec hc p tgt
  · rw [if_neg h, if_neg (fun h' => h (key.mpr h'))]
    cases p <;> rfl

/-! ## rampStep -/

/-- One parameter of `rampStep` (44_sequencing.md R114, R115). -/
theorem rampStepParam_spec {q : Params} {c : Channel} (hc : ChannelInv q c) (p : Parameter) (now : U32) :
    RampStepped now p c (rampStepParam now p c) := by
  unfold RampStepped rampStepParam
  simp only
  by_cases hact : (c.ramp p).act = true
  · rw [if_neg (by simp [hact]), if_pos hact]
    unfold rampValue
    rw [sub32_toNat]
    by_cases h1 : elapsed now (c.ramp p).t0 < (c.ramp p).delay.toNat
    · simp only [if_pos h1]
      exact setParam_spec hc p _
    · by_cases h2 : (c.ramp p).dur.toNat ≤ elapsed now (c.ramp p).t0 - (c.ramp p).delay.toNat
      · simp only [if_neg h1, if_pos h2]
        exact setAndEnd_spec hc p _
      · simp only [if_neg h1, if_neg h2]
        exact ⟨_, interp_spec _ _ (by omega), setParam_spec hc p _⟩
  · rw [if_pos (by simpa using hact), if_neg hact]

/-- The value a ramp applies is its start, its target, or lies between them. -/
theorem rampValue_between (now : U32) (r : Ramp) :
    min r.start.toNat r.target.toNat ≤ (rampValue now r).1.toNat ∧
    (rampValue now r).1.toNat ≤ max r.start.toNat r.target.toNat := by
  unfold rampValue
  simp only
  split
  · exact ⟨min_le_left _ _, le_max_left _ _⟩
  · split
    · exact ⟨min_le_right _ _, le_max_right _ _⟩
    · rename_i h1 h2
      have h := interp_spec r.start r.target
        (q := (sub32 now r.t0).toNat - r.delay.toNat) (d := r.dur.toNat) (by omega)
      unfold Interpolated at h
      split at h
      · have := mul_div_le_of_le (x := r.target.toNat - r.start.toNat)
          (q := (sub32 now r.t0).toNat - r.delay.toNat) (d := r.dur.toNat) (by omega)
        simp only
        generalize (r.target.toNat - r.start.toNat) * ((sub32 now r.t0).toNat - r.delay.toNat) / r.dur.toNat = e at *
        omega
      · have := mul_div_le_of_le (x := r.start.toNat - r.target.toNat)
          (q := (sub32 now r.t0).toNat - r.delay.toNat) (d := r.dur.toNat) (by omega)
        simp only
        generalize (r.start.toNat - r.target.toNat) * ((sub32 now r.t0).toNat - r.delay.toNat) / r.dur.toNat = e at *
        omega

theorem rampStepParam_keeps {q : Params} {c : Channel} (hq : q.legal = true) (hc : ChannelInv q c)
    (p : Parameter) (now : U32) : ChannelInv q (rampStepParam now p c) := by
  unfold rampStepParam
  split
  · rename_i hact
    have hv : ValueOk q (rampValue now (c.ramp p)).1 p := by
      cases p
      · have hr := hc.rampFreq hact
        have hb := rampValue_between now c.rampF
        have h1 := hr.1; have h2 := hr.2
        simp only [FreqInRange] at h1 h2
        refine ⟨?_, ?_⟩
        · exact le_trans (le_min h1.1 h2.1) hb.1
        · exact le_trans hb.2 (max_le h1.2 h2.2)
      · trivial
      · intro hm
        have := (hc.masterP hm).1
        simp [Channel.ramp, this] at hact
    simp only
    split
    · exact clearRact_keeps p (setParam_keeps hq hc hv)
    · exact setParam_keeps hq hc hv
  · exact hc

/-- `rampStep` on one channel (44_sequencing.md R114). -/
theorem rampStepChan_spec {q : Params} {c : Channel} (hq : q.legal = true) (hc : ChannelInv q c) (now : U32) :
    AllRampsStepped now c (rampStepChan now c) :=
  ⟨_, _, rampStepParam_spec hc .freq now, rampStepParam_spec (rampStepParam_keeps hq hc .freq now) .duty now,
    rampStepParam_spec (rampStepParam_keeps hq (rampStepParam_keeps hq hc .freq now) .duty now) .phase now⟩

theorem rampStepChan_keeps {q : Params} {c : Channel} (hq : q.legal = true) (hc : ChannelInv q c) (now : U32) :
    ChannelInv q (rampStepChan now c) :=
  rampStepParam_keeps hq (rampStepParam_keeps hq (rampStepParam_keeps hq hc .freq now) .duty now) .phase now

/-! ## applyPending -/

theorem applyFreq_keeps {q : Params} {c : Channel} (hq : q.legal = true) (hc : ChannelInv q c) :
    ChannelInv q (applyFreq c) := by
  unfold applyFreq
  split
  · rename_i hd
    have h := setFreq_keeps hq hc (hc.dirtyF_pend hd)
    exact { h with clientF := fun hr => ⟨(h.clientF hr).1, rfl⟩, dirtyF_pend := fun h' => by simp at h' }
  · exact hc

theorem applyDuty_keeps {q : Params} {c : Channel} (hc : ChannelInv q c) : ChannelInv q (applyDuty c) := by
  unfold applyDuty
  split
  · exact { setDuty_keeps c.pendDuty hc with }
  · exact hc

theorem applyPhase_keeps {q : Params} {c : Channel} (hc : ChannelInv q c) : ChannelInv q (applyPhase c) := by
  unfold applyPhase
  split
  · rename_i hd
    have hm : q.role ≠ .master := fun hm => by simp [(hc.masterP hm).2] at hd
    exact { setPhase_keeps c.pendPhase hm hc with masterP := fun h => absurd h hm }
  · exact hc

/-- `applyPending` on one channel (44_sequencing.md R108). -/
theorem applyPendingChan_spec {q : Params} {c : Channel} (hq : q.legal = true) (hc : ChannelInv q c) :
    PendingApplied c (applyPendingChan c) := by
  have h1 := applyFreq_keeps hq hc
  have h2 := applyDuty_keeps h1
  refine ⟨applyFreq c, applyDuty (applyFreq c), ?_, ?_, ?_⟩
  · unfold applyFreq
    split
    · exact ⟨_, setFreq_spec _ hc.duty hc.phase hc.pos_lt, rfl⟩
    · rfl
  · generalize applyFreq c = a at *
    unfold applyDuty
    split
    · exact ⟨_, setDuty_spec _ h1.period_le h1.phase, rfl⟩
    · rfl
  · unfold applyPendingChan
    generalize applyDuty (applyFreq c) = b at *
    unfold applyPhase
    split
    · exact ⟨_, setPhase_spec _ h2.period_le h2.duty, rfl⟩
    · rfl

theorem applyPendingChan_keeps {q : Params} {c : Channel} (hq : q.legal = true) (hc : ChannelInv q c) :
    ChannelInv q (applyPendingChan c) :=
  applyPhase_keeps (applyDuty_keeps (applyFreq_keeps hq hc))

/-! ## What the sequencing procedures leave alone -/

theorem applyFreq_frame (c : Channel) : (applyFreq c).duty = c.duty ∧ (applyFreq c).dirtyD = c.dirtyD ∧
    (applyFreq c).rampF = c.rampF ∧ (applyFreq c).rampD = c.rampD ∧ (applyFreq c).rampP = c.rampP := by
  unfold applyFreq; split <;> exact ⟨rfl, rfl, rfl, rfl, rfl⟩

theorem applyDuty_frame (c : Channel) :
    (applyDuty c).rampF = c.rampF ∧ (applyDuty c).rampD = c.rampD ∧ (applyDuty c).rampP = c.rampP := by
  unfold applyDuty; split <;> exact ⟨rfl, rfl, rfl⟩

theorem applyPhase_frame (c : Channel) : (applyPhase c).duty = c.duty ∧
    (applyPhase c).rampF = c.rampF ∧ (applyPhase c).rampD = c.rampD ∧ (applyPhase c).rampP = c.rampP := by
  unfold applyPhase; split <;> exact ⟨rfl, rfl, rfl, rfl⟩

/-- `applyPending` touches no ramp (44_sequencing.md R108, R116). -/
theorem applyPendingChan_ramps (c : Channel) : (applyPendingChan c).rampF = c.rampF ∧
    (applyPendingChan c).rampD = c.rampD ∧ (applyPendingChan c).rampP = c.rampP := by
  have hp := applyPhase_frame (applyDuty (applyFreq c))
  have hd := applyDuty_frame (applyFreq c)
  have hf := applyFreq_frame c
  exact ⟨hp.2.1.trans (hd.1.trans hf.2.2.1), hp.2.2.1.trans (hd.2.1.trans hf.2.2.2.1),
    hp.2.2.2.trans (hd.2.2.trans hf.2.2.2.2)⟩

/-- A duty that is not dirty is not changed by `applyPending` (44_sequencing.md R108). -/
theorem applyPendingChan_duty {c : Channel} (h : c.dirtyD = false) : (applyPendingChan c).duty = c.duty := by
  have hf := applyFreq_frame c
  have hd : applyDuty (applyFreq c) = applyFreq c := by
    unfold applyDuty; exact if_neg (by rw [hf.2.1, h]; exact Bool.false_ne_true)
  exact (applyPhase_frame _).1.trans ((congrArg Channel.duty hd).trans hf.1)

/-- The frequency and the phase part of `rampStep` touch neither the duty nor its ramp (44_sequencing.md R114). -/
theorem rampStepParam_other_duty (now : U32) {p : Parameter} (h : p ≠ .duty) (c : Channel) :
    (rampStepParam now p c).duty = c.duty ∧ (rampStepParam now p c).rampD = c.rampD := by
  cases p
  · unfold rampStepParam; dsimp only; split_ifs <;> exact ⟨rfl, rfl⟩
  · exact absurd rfl h
  · unfold rampStepParam; dsimp only; split_ifs <;> exact ⟨rfl, rfl⟩

end Sys2Proof.Machine
end

