-- ==== Sys2Proof/Laws/Encoding.lean ====
section
/-! SUPPORT. The fields of a packed command word (30_encoding.md R51), and the bytes of a link packet (R55). -/

namespace Sys2Proof

theorem packCmd_toNat (op ch : Byte) (a b c : U16) :
    (packCmd op ch a b c).toNat =
      op.toNat * 2 ^ 56 + ch.toNat * 2 ^ 48 + a.toNat * 2 ^ 32 + b.toNat * 2 ^ 16 + c.toNat := by
  have := op.isLt; have := ch.isLt; have := a.isLt; have := b.isLt; have := c.isLt
  show (op ++ ch ++ a ++ b ++ c : BitVec (8 + 8 + 16 + 16 + 16)).toNat = _
  simp only [BitVec.toNat_append]
  rw [← Nat.shiftLeft_add_eq_or_of_lt (by omega), ← Nat.shiftLeft_add_eq_or_of_lt (by omega),
    ← Nat.shiftLeft_add_eq_or_of_lt (by omega), ← Nat.shiftLeft_add_eq_or_of_lt (by omega)]
  simp only [Nat.shiftLeft_eq]; ring

theorem extract_toNat {w : Nat} (x : BitVec w) (s n : Nat) :
    (x.extractLsb' s n).toNat = x.toNat / 2 ^ s % 2 ^ n := by
  simp [BitVec.extractLsb'_toNat, Nat.shiftRight_eq_div_pow]

theorem opField_packCmd (op ch : Byte) (a b c : U16) : opField (packCmd op ch a b c) = op := by
  have := op.isLt; have := ch.isLt; have := a.isLt; have := b.isLt; have := c.isLt
  apply BitVec.eq_of_toNat_eq; rw [opField, extract_toNat, packCmd_toNat]; omega

theorem chField_packCmd (op ch : Byte) (a b c : U16) : chField (packCmd op ch a b c) = ch := by
  have := op.isLt; have := ch.isLt; have := a.isLt; have := b.isLt; have := c.isLt
  apply BitVec.eq_of_toNat_eq; rw [chField, extract_toNat, packCmd_toNat]; omega

theorem aField_packCmd (op ch : Byte) (a b c : U16) : aField (packCmd op ch a b c) = a := by
  have := op.isLt; have := ch.isLt; have := a.isLt; have := b.isLt; have := c.isLt
  apply BitVec.eq_of_toNat_eq; rw [aField, extract_toNat, packCmd_toNat]; omega

theorem bField_packCmd (op ch : Byte) (a b c : U16) : bField (packCmd op ch a b c) = b := by
  have := op.isLt; have := ch.isLt; have := a.isLt; have := b.isLt; have := c.isLt
  apply BitVec.eq_of_toNat_eq; rw [bField, extract_toNat, packCmd_toNat]; omega

theorem cField_packCmd (op ch : Byte) (a b c : U16) : cField (packCmd op ch a b c) = c := by
  have := op.isLt; have := ch.isLt; have := a.isLt; have := b.isLt; have := c.isLt
  apply BitVec.eq_of_toNat_eq; rw [cField, extract_toNat, packCmd_toNat]; omega

/-- A command word is its five fields, most significant first (30_encoding.md R51). -/
theorem packCmd_fields (w : CmdWord) :
    packCmd (opField w) (chField w) (aField w) (bField w) (cField w) = w := by
  have := w.isLt
  apply BitVec.eq_of_toNat_eq
  rw [packCmd_toNat, opField, chField, aField, bField, cField]; simp only [extract_toNat]; omega

theorem packCmd_and (op ch : Byte) (a b c : U16) (op' ch' : Byte) (a' b' c' : U16) :
    packCmd op ch a b c &&& packCmd op' ch' a' b' c' =
      packCmd (op &&& op') (ch &&& ch') (a &&& a') (b &&& b') (c &&& c') := by
  show (op ++ ch ++ a ++ b ++ c : BitVec (8 + 8 + 16 + 16 + 16)) &&&
    (op' ++ ch' ++ a' ++ b' ++ c' : BitVec (8 + 8 + 16 + 16 + 16)) =
    (_ ++ _ ++ _ ++ _ ++ _ : BitVec (8 + 8 + 16 + 16 + 16))
  simp only [← BitVec.and_append]

theorem packCmd_inj {op ch : Byte} {a b c : U16} {op' ch' : Byte} {a' b' c' : U16} :
    packCmd op ch a b c = packCmd op' ch' a' b' c' ↔ op = op' ∧ ch = ch' ∧ a = a' ∧ b = b' ∧ c = c' := by
  constructor
  · intro h
    have h1 := congrArg opField h; have h2 := congrArg chField h; have h3 := congrArg aField h
    have h4 := congrArg bField h; have h5 := congrArg cField h
    simp only [opField_packCmd, chField_packCmd, aField_packCmd, bField_packCmd, cField_packCmd]
      at h1 h2 h3 h4 h5
    exact ⟨h1, h2, h3, h4, h5⟩
  · rintro ⟨rfl, rfl, rfl, rfl, rfl⟩; rfl

/-- The three bytes of a link packet, byte 0 most significant (30_encoding.md R55). -/
theorem packet_toNat (m h l : Byte) :
    (m ++ h ++ l : PacketWord).toNat = m.toNat * 2 ^ 16 + h.toNat * 2 ^ 8 + l.toNat := by
  have := m.isLt; have := h.isLt; have := l.isLt
  show (m ++ h ++ l : BitVec (8 + 8 + 8)).toNat = _
  simp only [BitVec.toNat_append]
  rw [← Nat.shiftLeft_add_eq_or_of_lt (by omega), ← Nat.shiftLeft_add_eq_or_of_lt (by omega)]
  simp only [Nat.shiftLeft_eq]; ring

theorem rowOf_eq_ok {z : Bool} {i j : Instr} : rowOf z i = .ok j ↔ z = true ∧ i = j := by
  unfold rowOf; split <;> simp_all

end Sys2Proof
end

