-- ==== Sys2Proof/Laws/PerInstr.lean ====
section
/-! SUPPORT. The family `EncodesUnderItsMask`, one lemma per constructor of Instr: the word an instruction is written
as matches that instruction's row of the opcode map (30_encoding.md R53), or is the packet of its bytes (R55). -/

namespace Sys2Proof.Laws

open Sys2Proof Sys2Proof.Safety

/-- A command's word matches its own row, and the row reads the operands back; a packet is its three bytes. -/
def EncodesUnderItsMask.Statement (i : Instr) : Prop :=
  match encode i with
  | .cmd w => ∃ r ∈ opcodeRows w, RowMatches w r ∧ r.2.2 = i
  | .link w => ∃ m h l : Byte, i = .link3 m h l ∧ w.toNat = m.toNat * 65536 + h.toNat * 256 + l.toNat

/-- The operands of a row, for a word given by its fields. -/
theorem packCmd_operands (op ch : Byte) (a b c : U16) :
    BitVec.ofNat 8 ((packCmd op ch a b c).toNat / 2 ^ 48) = ch ∧
    BitVec.ofNat 16 ((packCmd op ch a b c).toNat / 2 ^ 32) = a ∧
    BitVec.ofNat 16 ((packCmd op ch a b c).toNat / 2 ^ 16) = b ∧
    BitVec.ofNat 16 (packCmd op ch a b c).toNat = c := by
  have := op.isLt; have := ch.isLt; have := a.isLt; have := b.isLt; have := c.isLt
  refine ⟨?_, ?_, ?_, ?_⟩ <;> apply BitVec.eq_of_toNat_eq <;> rw [BitVec.toNat_ofNat, packCmd_toNat] <;> omega

/-- The mask of a row whose fields B and C are 0, on a packed word. -/
theorem maskBC (op ch : Byte) (a : U16) :
    packCmd op ch a 0 0 &&& 0xFF000000FFFFFFFF = packCmd op 0 0 0 0 := by
  rw [show (0xFF000000FFFFFFFF : CmdWord) = packCmd 0xFF 0 0 0xFFFF 0xFFFF by decide, packCmd_and]
  congr 1 <;> simp
  exact BitVec.and_allOnes (x := op)

/-- The mask of a RAMP row, on a packed word. -/
theorem maskOp (op ch : Byte) (a b c : U16) :
    packCmd op ch a b c &&& 0xFF00000000000000 = packCmd op 0 0 0 0 := by
  rw [show (0xFF00000000000000 : CmdWord) = packCmd 0xFF 0 0 0 0 by decide, packCmd_and]
  congr 1 <;> simp
  exact BitVec.and_allOnes (x := op)

/-- The mask of SET_GFREQ, on a packed word. -/
theorem maskCHBC (op : Byte) (a : U16) :
    packCmd op 0 a 0 0 &&& 0xFFFF0000FFFFFFFF = packCmd op 0 0 0 0 := by
  rw [show (0xFFFF0000FFFFFFFF : CmdWord) = packCmd 0xFF 0xFF 0 0xFFFF 0xFFFF by decide, packCmd_and]
  congr 1 <;> simp
  exact BitVec.and_allOnes (x := op)

namespace EncodesUnderItsMask

theorem nop : Statement .nop := ⟨_, List.mem_of_getElem? (i := 0) rfl, by decide, rfl⟩

theorem begin : Statement .begin := ⟨_, List.mem_of_getElem? (i := 1) rfl, by decide, rfl⟩

theorem tick : Statement .tick := ⟨_, List.mem_of_getElem? (i := 2) rfl, by decide, rfl⟩

theorem sched : Statement .sched := ⟨_, List.mem_of_getElem? (i := 3) rfl, by decide, rfl⟩

theorem setFreq (ch : Byte) (v : U16) : Statement (.setFreq ch v) := by
  have h := packCmd_operands 0x10 ch v 0 0
  exact ⟨_, List.mem_of_getElem? (i := 4) rfl, maskBC 0x10 ch v, by simp only [h.1, h.2.1]⟩

theorem setDuty (ch : Byte) (v : U16) : Statement (.setDuty ch v) := by
  have h := packCmd_operands 0x11 ch v 0 0
  exact ⟨_, List.mem_of_getElem? (i := 5) rfl, maskBC 0x11 ch v, by simp only [h.1, h.2.1]⟩

theorem setPhase (ch : Byte) (v : U16) : Statement (.setPhase ch v) := by
  have h := packCmd_operands 0x12 ch v 0 0
  exact ⟨_, List.mem_of_getElem? (i := 6) rfl, maskBC 0x12 ch v, by simp only [h.1, h.2.1]⟩

theorem setGFreq (v : U16) : Statement (.setGFreq v) := by
  have h := packCmd_operands 0x13 0 v 0 0
  exact ⟨_, List.mem_of_getElem? (i := 7) rfl, maskCHBC 0x13 v, by simp only [h.2.1]⟩

theorem setFreqNext (ch : Byte) (v : U16) : Statement (.setFreqNext ch v) := by
  have h := packCmd_operands 0x20 ch v 0 0
  exact ⟨_, List.mem_of_getElem? (i := 8) rfl, maskBC 0x20 ch v, by simp only [h.1, h.2.1]⟩

theorem setDutyNext (ch : Byte) (v : U16) : Statement (.setDutyNext ch v) := by
  have h := packCmd_operands 0x21 ch v 0 0
  exact ⟨_, List.mem_of_getElem? (i := 9) rfl, maskBC 0x21 ch v, by simp only [h.1, h.2.1]⟩

theorem setPhaseNext (ch : Byte) (v : U16) : Statement (.setPhaseNext ch v) := by
  have h := packCmd_operands 0x22 ch v 0 0
  exact ⟨_, List.mem_of_getElem? (i := 10) rfl, maskBC 0x22 ch v, by simp only [h.1, h.2.1]⟩

theorem rampFreq (ch : Byte) (v dur dly : U16) : Statement (.rampFreq ch v dur dly) := by
  have h := packCmd_operands 0x30 ch v dur dly
  exact ⟨_, List.mem_of_getElem? (i := 11) rfl, maskOp 0x30 ch v dur dly, by
    simp only [h.1, h.2.1, h.2.2.1, h.2.2.2]⟩

theorem rampDuty (ch : Byte) (v dur dly : U16) : Statement (.rampDuty ch v dur dly) := by
  have h := packCmd_operands 0x31 ch v dur dly
  exact ⟨_, List.mem_of_getElem? (i := 12) rfl, maskOp 0x31 ch v dur dly, by
    simp only [h.1, h.2.1, h.2.2.1, h.2.2.2]⟩

theorem rampPhase (ch : Byte) (v dur dly : U16) : Statement (.rampPhase ch v dur dly) := by
  have h := packCmd_operands 0x32 ch v dur dly
  exact ⟨_, List.mem_of_getElem? (i := 13) rfl, maskOp 0x32 ch v dur dly, by
    simp only [h.1, h.2.1, h.2.2.1, h.2.2.2]⟩

theorem get (ch : Byte) (sel : U16) : Statement (.get ch sel) := by
  have h := packCmd_operands 0x40 ch sel 0 0
  exact ⟨_, List.mem_of_getElem? (i := 14) rfl, maskBC 0x40 ch sel, by simp only [h.1, h.2.1]⟩

theorem link3 (m h l : Byte) : Statement (.link3 m h l) :=
  ⟨m, h, l, rfl, packet_toNat m h l⟩

end EncodesUnderItsMask

end Sys2Proof.Laws
end

