-- ==== Sys2Proof/Laws/StateOps.lean ====
section
/-! SUPPORT. What the procedures over the whole state do: the tick (41_phase_accumulator.md R66), the capture
(43_synchronization.md R93), adoption (R101), and one step (20_memory.md R41). -/

namespace Sys2Proof.Machine

open Sys2Proof.Safety

/-! ## The tick -/

theorem activeAt_iff (c : Channel) : activeAt c.pos c.startUs c.endUs c.wraps = true ↔ InWindow c := by
  unfold activeAt InWindow
  cases c.wraps <;> simp

theorem guarded_le (dt period : U32) : guarded dt period ≤ 2 * period.toNat := by
  unfold guarded; split <;> omega

/-- One channel's part of the tick (41_phase_accumulator.md R67 to R70). -/
theorem tickChan_spec {s : State} {c : Channel} (hc : ChannelInv s.cfg c) (k : Nat) :
    Ticked s k c (tickChan s.cfg s.nowUs (sub32 s.nowUs s.lastTick) s.refTime k c) := by
  have hP : 0 < c.period.toNat := lt_of_lt_of_le (by norm_num) hc.period_ge
  have hle := hc.period_le
  refine ⟨rfl, ?_, activeAt_iff (tickChan s.cfg s.nowUs (sub32 s.nowUs s.lastTick) s.refTime k c)⟩
  rw [tickChan_pos]
  unfold tickPos isAbs
  split
  · rw [u32_toNat_of_lt (lt_trans (Nat.mod_lt _ hP) (by omega)), sub32_toNat]
  · rw [u32_toNat_of_lt (lt_trans (Nat.mod_lt _ hP) (by omega))]
    unfold guarded
    rw [sub32_toNat]

theorem pinWrites_eq_zipIdx (k : Nat) (xs ys : List Channel) :
    pinWrites k xs ys = ((xs.zip ys).zipIdx k).filterMap fun e =>
      if e.1.1.out = e.1.2.out then none else some (Output.pinWrite e.2 e.1.2.out) := by
  induction xs generalizing k ys with
  | nil => simp [pinWrites]
  | cons x xs ih =>
    cases ys with
    | nil => simp [pinWrites]
    | cons y ys =>
      simp only [pinWrites, List.zip_cons_cons, List.zipIdx_cons, List.filterMap_cons, ih]
      by_cases h : x.out = y.out
      · simp [h]
      · simp [h, Ne.symm h]

theorem pinWrites_eq_latchWrites (xs ys : List Channel) : pinWrites 0 xs ys = latchWrites xs ys :=
  pinWrites_eq_zipIdx 0 xs ys

theorem referenceEvent_spec (p : Params) (f : U16) : Emitted p f (referenceEvent p f) := by
  unfold Emitted referenceEvent
  cases p.link
  · rfl
  · refine ⟨_, _, rfl, ?_, ?_⟩
    · have := f.isLt
      simp only [BitVec.extractLsb'_toNat, Nat.shiftRight_eq_div_pow]; omega
    · simp

/-- `tick(now_us)` on a running block that obeys the invariants (41_phase_accumulator.md R66;
43_synchronization.md R90). -/
theorem tick_spec {s : State} (hs : Inv s) (hrun : s.run = true) : TickOf s (tick s.nowUs s) := by
  have hch : EachChannel s.chans (tickChannels s.nowUs s).chans (Ticked s) :=
    mapFrom_each fun k c hk => tickChan_spec (hs.chans c (List.mem_of_getElem? hk)) k
  have htr : (tickChannels s.nowUs s).trace = s.trace ++ latchWrites s.chans (tickChannels s.nowUs s).chans := by
    rw [← pinWrites_eq_latchWrites]; rfl
  unfold TickOf tick
  rw [if_pos hrun]
  simp only
  by_cases hm : s.cfg.role = .master
  · rw [if_pos hm]
    unfold emitCheck
    simp only [tickChannels_cfg, tickChannels_lastEmit, sub32_toNat]
    by_cases he : s.cfg.syncIvl.toNat ≤ elapsed s.nowUs s.lastEmit
    · have hme : s.cfg.role = .master ∧ s.cfg.syncIvl.toNat ≤ elapsed s.nowUs s.lastEmit := ⟨hm, he⟩
      rw [if_pos he, if_pos hme]
      refine ⟨rfl, hch, ?_, ?_⟩
      · have hn := (legal_nch hs.legal).1
        have hlen : 0 < s.chans.length := by rw [hs.nchans]; exact hn
        have h0 : s.chans[0]? = some s.chans[0] := List.getElem?_eq_getElem hlen
        obtain ⟨c1, h1, h1'⟩ := hch.2 0 _ h0
        refine ⟨s.chans[0], _, h0, referenceEvent_spec s.cfg _, ?_⟩
        have hf : (State.chan (tickChannels s.nowUs s) 0).freq = (s.chans[0]).freq := by
          unfold State.chan
          rw [List.getD_eq_getElem?_getD, h1]
          show c1.freq = _
          rw [h1'.1]
        show (tickChannels s.nowUs s).trace ++ _ = _
        rw [htr, hf]; rfl
      · simp only
        split
        · rfl
        · simp [BitVec.toNat_add]
    · rw [if_neg he, if_neg (fun h => he h.2)]
      exact ⟨rfl, hch, htr, rfl⟩
  · rw [if_neg hm, if_neg (fun h => hm h.1)]
    exact ⟨rfl, hch, htr, rfl⟩

/-! ## The client -/

theorem latencyCorrected_toNat (p : Params) (now : U32) : (latencyCorrected p now).toNat = corrected p now := by
  unfold latencyCorrected corrected
  rw [sub32_toNat, elapsed, zext16_toNat]

/-- `hardResync` (43_synchronization.md R94). -/
theorem hardResync_spec (now : U32) (s : State) : HardResynced now s (hardResync now s) :=
  ⟨rfl, latencyCorrected_toNat s.cfg now, mapFrom_each fun _ _ _ => rfl⟩

theorem fits_iff (s : State) (raw k : Nat) :
    absDiff raw (k * s.avg.toNat) ≤ s.avg.toNat / 2 ^ s.cfg.tolSh.toNat ↔ Fits s raw k := by
  unfold Fits
  rw [← Int.ofNat_le, absDiff_eq_abs]
  push_cast
  rfl

/-- The search of missed-event compensation: the first multiple of `k, …, k + fuel - 1` that fits, or 1. -/
theorem firstMultiple_spec (s : State) (raw : Nat) (k fuel : Nat) :
    let n := firstMultiple raw s.avg.toNat (s.avg.toNat / 2 ^ s.cfg.tolSh.toNat) k fuel
    (n = 1 ∧ ∀ j, k ≤ j → j < k + fuel → ¬ Fits s raw j) ∨
    (k ≤ n ∧ n < k + fuel ∧ Fits s raw n ∧ ∀ j, k ≤ j → j < n → ¬ Fits s raw j) := by
  induction fuel generalizing k with
  | zero => exact .inl ⟨rfl, fun j h1 h2 => by omega⟩
  | succ fuel ih =>
    simp only [firstMultiple]
    by_cases hf : Fits s raw k
    · rw [if_pos ((fits_iff s raw k).mpr hf)]
      exact .inr ⟨le_refl _, by omega, hf, fun j h1 h2 => by omega⟩
    · rw [if_neg fun h => hf ((fits_iff s raw k).mp h)]
      rcases ih (k + 1) with ⟨h1, h2⟩ | ⟨h1, h2, h3, h4⟩
      · refine .inl ⟨h1, fun j hj1 hj2 => ?_⟩
        rcases Nat.eq_or_lt_of_le hj1 with e | e
        · exact e ▸ hf
        · exact h2 j e (by omega)
      · refine .inr ⟨by omega, by omega, h3, fun j hj1 hj2 => ?_⟩
        rcases Nat.eq_or_lt_of_le hj1 with e | e
        · exact e ▸ hf
        · exact h4 j e hj2

/-- Step 2, missed-event compensation (43_synchronization.md R96). -/
theorem missedMultiple_spec (s : State) (raw : Nat) : IsMultiple s raw (missedMultiple s.cfg s.avg raw) := by
  have h := firstMultiple_spec s raw 2 (s.cfg.missMax.toNat - 1)
  unfold IsMultiple missedMultiple
  rcases h with ⟨h1, h2⟩ | ⟨h1, h2, h3, h4⟩
  · exact .inl ⟨h1, fun k hk1 hk2 => h2 k hk1 (by omega)⟩
  · exact .inr ⟨h1, by omega, h3, h4⟩

theorem IsMultiple_pos {s : State} {raw n : Nat} (h : IsMultiple s raw n) : 1 ≤ n := by
  rcases h with ⟨h, _⟩ | ⟨h, _⟩ <;> omega

theorem sum_toNat_lt (xs : List U32) : (xs.map BitVec.toNat).sum ≤ xs.length * (2 ^ 32 - 1) := by
  induction xs with
  | nil => simp
  | cons x xs ih =>
    have := x.isLt
    simp only [List.map_cons, List.sum_cons, List.length_cons, Nat.add_mul]
    omega

/-- The mean of `NBUF` 32-bit entries fits 32 bits (40_timing_model.md R60 item 6; 43_synchronization.md R97). -/
theorem meanOf_toNat {xs : List U32} {n : Nat} (h : xs.length = n) :
    (meanOf xs n).toNat = (xs.map BitVec.toNat).sum / n := by
  unfold meanOf
  refine u32_toNat_of_lt ?_
  rcases Nat.eq_zero_or_pos n with h0 | h0
  · simp [h0]
  · have := sum_toNat_lt xs
    rw [Nat.div_lt_iff_lt_mul h0]
    rw [h] at this
    have : n * (2 ^ 32 - 1) < 2 ^ 32 * n := by omega
    omega

/-- The filter step on the ring read from its oldest entry: that entry leaves, the sample joins at the end
(43_synchronization.md R97). -/
theorem insertSample_rotate {s : State} (hb : s.buf.length = s.cfg.nbuf) (hh : s.head < s.cfg.nbuf) (x : U32) :
    (insertSample x s).buf.rotate (insertSample x s).head = (s.buf.rotate s.head).tail ++ [x] := by
  show (s.buf.set s.head x).rotate ((s.head + 1) % s.cfg.nbuf) = _
  rw [← hb] at hh ⊢
  have hl : (s.buf.set s.head x).length = s.buf.length := List.length_set
  rw [← hl, List.rotate_mod, List.rotate_eq_drop_append_take (by omega),
    List.rotate_eq_drop_append_take (by omega), List.set_eq_take_append_cons_drop, if_pos hh]
  have ht : (s.buf.take s.head).length = s.head := by simp; omega
  rw [List.drop_append, List.take_append, ht]
  have e : s.head + 1 - s.head = 1 := by omega
  rw [e, List.drop_eq_nil_of_le (by omega), List.take_of_length_le (by omega)]
  rw [List.drop_eq_getElem_cons hh]
  simp only [List.cons_append, List.tail_cons, List.drop_succ_cons, List.drop_zero, List.nil_append,
    List.take_succ_cons, List.take_zero, List.append_assoc]

theorem nudgeChan_spec {p : Params} {c : Channel} (hP : 0 < c.period.toNat) (err : Int) (k : Nat)
    (hn : p.nudge = true) : Nudged p err k c (nudgeChan p err k c) := by
  unfold Nudged nudgeChan isAbs
  rcases ha : p.absMask.getLsbD k with _ | _
  · have hlt := modNat_lt ((c.pos.toNat : Int) - err) hP
    have := c.period.isLt
    simp only [hn, and_self, if_true, Bool.false_eq_true, if_false, true_and]
    rw [u32_toNat_of_lt (by omega), modNat_eq_emod _ hP]
  · simp

/-- An ordinary reference event (43_synchronization.md R93, R96 to R99). -/
theorem captureInterval_spec {s : State} (hs : Inv s) (now : U32) {raw : Nat} (hraw : raw < 2 ^ 32) :
    IntervalTaken now raw (missedMultiple s.cfg s.avg raw) s (captureInterval now raw s) := by
  have hsamp : (u32 (raw / missedMultiple s.cfg s.avg raw)).toNat = raw / missedMultiple s.cfg s.avg raw :=
    u32_toNat_of_lt (lt_of_le_of_lt (Nat.div_le_self _ _) hraw)
  have hmean := meanOf_toNat (xs := s.buf.set s.head (u32 (raw / missedMultiple s.cfg s.avg raw)))
    (n := s.cfg.nbuf) (by rw [List.length_set, hs.nbuf])
  refine ⟨_, hsamp, ?_⟩
  unfold captureInterval
  simp only [insertSample_cfg]
  by_cases hn : s.cfg.nudge = true
  · rw [if_pos hn]
    refine ⟨rfl, hmean, latencyCorrected_toNat s.cfg now, mapFrom_each fun k c hk => ?_⟩
    have hc := hs.chans c (List.mem_of_getElem? hk)
    exact nudgeChan_spec (lt_of_lt_of_le (by norm_num) hc.period_ge) _ k hn
  · rw [if_neg hn]
    refine ⟨rfl, hmean, latencyCorrected_toNat s.cfg now, rfl, fun k c hk => ⟨c, hk, ?_⟩⟩
    unfold Nudged
    rw [if_neg (fun h => hn h.1)]

/-- `capture` (43_synchronization.md R93). -/
theorem capture_spec {s : State} (hs : Inv s) (now : U32) : Captured now s (capture now s) := by
  unfold Captured capture
  simp only [sub32_toNat]
  by_cases h1 : s.synced = false
  · rw [if_pos h1, if_pos (Or.inl h1)]
    exact hardResync_spec now s
  · by_cases h2 : s.cfg.hardMul.toNat * s.cfg.syncIvl.toNat ≤ elapsed now s.lastEvt
    · rw [if_neg h1, if_pos h2, if_pos (Or.inr h2)]
      exact hardResync_spec now s
    · rw [if_neg h1, if_neg h2, if_neg (fun h => h.elim h1 h2)]
      exact ⟨_, missedMultiple_spec s _, captureInterval_spec hs now (Nat.mod_lt _ (by norm_num))⟩

/-- `adopt` (43_synchronization.md R101). -/
theorem adopt_spec {s : State} (hs : Inv s) (f : U16) : Adopted f s (adopt f s) := by
  unfold Adopted adopt
  by_cases h : s.cfg.adopt = true ∧ FreqInRange s.cfg f
  · rw [if_pos h, if_pos (by simp [h.1, badFreq_eq_false.mpr h.2])]
    refine ⟨rfl, mapFrom_each fun k c hk => ?_⟩
    have hc := hs.chans c (List.mem_of_getElem? hk)
    exact setFreq_spec f hc.duty hc.phase hc.pos_lt
  · rw [if_neg h, if_neg]
    simp only [Bool.and_eq_true, Bool.not_eq_true', badFreq_eq_false]
    exact h

/-! ## The step -/

/-- What a step that answers a next state can be: an arrival or an idle step, or the service of one event
(20_memory.md R41). -/
theorem step_next_cases {s t : State} (h : step s = .next t) :
    s.cfg.legal = true ∧
    (nextPick s = .settled t ∨ ∃ e u, nextPick s = .serve e u ∧ serveEvent e u = .next t) := by
  unfold step at h
  split at h
  · rename_i hl
    refine ⟨hl, ?_⟩
    split at h
    · rename_i u hu
      injection h with h
      exact .inl (h ▸ hu)
    · rename_i e u hu
      exact .inr ⟨e, u, hu, h⟩
  · cases h

/-- What the environment's next move leaves alone when an event is served: all but the queue and the stamps. -/
theorem nextPick_serve {s u : State} {e : Event} (h : nextPick s = .serve e u) :
    u = { s with waiting := u.waiting, env := u.env, nowUs := u.nowUs, nowMs := u.nowMs } := by
  have key : ∀ {v : State}, takeWaiting v = .serve e u →
      u = { v with waiting := u.waiting, nowUs := u.nowUs, nowMs := u.nowMs } := by
    intro v hv
    unfold takeWaiting at hv
    split at hv
    · cases hv
    · injection hv with _ hv; subst hv; rfl
  unfold nextPick at h
  split at h
  · cases h
  · have := key h
    rw [this]
  · have := key h
    rw [this]

/-- What a step that serves nothing does: it stays, forgets a spent move, lets events arrive, or resets. -/
theorem nextPick_settled {s t : State} (h : nextPick s = .settled t) :
    t = { s with waiting := t.waiting, env := t.env } ∨
    ∃ a m, s.env = .arrive a :: m ∧ a.reset = true ∧ t = resetBlock { s with env := m } := by
  have key : ∀ {v : State}, takeWaiting v = .settled t → t = v := by
    intro v hv
    unfold takeWaiting at hv
    split at hv
    · injection hv with hv; exact hv.symm
    · cases hv
  unfold nextPick at h
  split at h
  · rename_i a m hm
    injection h with h
    unfold arrive at h
    split at h
    · rename_i hr
      exact .inr ⟨a, m, hm, hr, h.symm⟩
    · left; subst h; rfl
  · left; rw [key h]
  · left; rw [key h]

end Sys2Proof.Machine
end

