-- ==== Sys2Proof/Tests/Slice0.lean ====
section
/-! SUPPORT. Tests: the checks of WellFormed each refuse something; every constructor's word, written out from
30_encoding.md R53, decodes; at most two small vectors per instruction, from 95_test_vectors.md and the worked
examples of the rules; and, for every statement with hypotheses, states and operands that meet them. -/

namespace Sys2Proof.Tests

open Sys2Proof Sys2Proof.Machine Sys2Proof.Safety

/-! ## Helpers -/

/-- The default parameters with `n` channels of the given initial values. -/
def params (n : Nat) (f d q : U16) : Params :=
  { Params.default with
    nch := n, initFreq := List.replicate n f, initDuty := List.replicate n d, initPhase := List.replicate n q }

/-- One channel, 10 Hz, the given duty and phase. -/
def one (d q : U16) : Params := params 1 100 d q

/-- An instance that has begun at time 0. -/
def begun (p : Params) : State := { State.resetOf p with run := true }

/-- The state with the given positions. -/
def positions (xs : List U32) (s : State) : State :=
  { s with chans := s.chans.zipWith (fun c x => { c with pos := x }) xs }

/-- `f` holds in the next state. -/
def after (o : Host.Outcome State Fault Refusal) (f : State → Bool) : Bool :=
  match o with
  | .next t => f t
  | _ => false

/-- The outputs of an operation in a state that has emitted nothing. -/
def outs (o : Host.Outcome State Fault Refusal) : List Output :=
  match o with
  | .next t => t.trace
  | _ => []

/-! ## WellFormed: each check refuses (00_scope.md R6, R7) -/

theorem test_default_is_legal : Params.default.legal = true := by decide

theorem test_refuses_no_channel : (params 0 100 0 0).nchOk = false ∧ (params 0 100 0 0).legal = false := by decide

theorem test_refuses_17_channels : (params 17 100 0 0).nchOk = false ∧ (params 17 100 0 0).legal = false := by decide

theorem test_refuses_missing_init :
    ({ Params.default with initDuty := [] } : Params).initLengthsOk = false ∧
    ({ Params.default with initDuty := [] } : Params).legal = false := by decide

theorem test_refuses_crossed_limits :
    ({ Params.default with freqMin := 200, freqMax := 100 } : Params).freqLimitsOk = false ∧
    ({ Params.default with freqMin := 0 } : Params).freqLimitsOk = false := by decide

theorem test_refuses_init_freq_below_min :
    ({ Params.default with freqMin := 101 } : Params).initFreqOk = false ∧
    ({ Params.default with freqMin := 101 } : Params).legal = false := by decide

theorem test_refuses_init_duty_10001 : (one 10001 0).initDutyOk = false ∧ (one 10001 0).legal = false := by decide

theorem test_refuses_init_phase_10000 : (one 0 10000).initPhaseOk = false ∧ (one 0 10000).legal = false := by decide

theorem test_refuses_master_phase :
    ({ one 0 1 with role := .master } : Params).masterPhaseOk = false ∧
    ({ one 0 1 with role := .master } : Params).legal = false ∧ (one 0 1).legal = true := by decide

theorem test_refuses_absmask_above_nch :
    ({ one 0 0 with absMask := 2 } : Params).absMaskOk = false ∧
    ({ one 0 0 with absMask := 2 } : Params).legal = false ∧ ({ one 0 0 with absMask := 1 } : Params).legal = true := by
  decide

theorem test_refuses_syncivl_0 :
    ({ Params.default with syncIvl := 0 } : Params).syncIvlOk = false ∧
    ({ Params.default with syncIvl := 0 } : Params).legal = false := by decide

theorem test_refuses_missmax_0 :
    ({ Params.default with missMax := 0 } : Params).missMaxOk = false ∧
    ({ Params.default with missMax := 0 } : Params).legal = false := by decide

theorem test_refuses_hardmul_1 :
    ({ Params.default with hardMul := 1 } : Params).hardMulOk = false ∧
    ({ Params.default with hardMul := 1 } : Params).legal = false := by decide

theorem test_refuses_nbuf_0_and_65 :
    ({ Params.default with nbuf := 0 } : Params).nbufOk = false ∧
    ({ Params.default with nbuf := 65 } : Params).nbufOk = false := by decide

theorem test_illFormed_packet_refused :
    (Instr.link3 0xA4 0 0).wellFormed Params.default = false ∧ (Instr.link3 0xA5 0 0).wellFormed Params.default = true := by
  decide

/-! ## Decoding (30_encoding.md R53, R55, R57; 95_test_vectors.md section 7) -/

theorem test_decode_nop : decode (.cmd 0x0000000000000000) = .ok .nop := by decide

theorem test_decode_begin : decode (.cmd 0x0100000000000000) = .ok .begin := by decide

theorem test_decode_tick : decode (.cmd 0x0200000000000000) = .ok .tick := by decide

theorem test_decode_sched : decode (.cmd 0x0300000000000000) = .ok .sched := by decide

theorem test_decode_setFreq : decode (.cmd 0x1001012C00000000) = .ok (.setFreq 1 300) := by decide

theorem test_decode_setDuty : decode (.cmd 0x1101138800000000) = .ok (.setDuty 1 5000) := by decide

theorem test_decode_setPhase : decode (.cmd 0x120109C400000000) = .ok (.setPhase 1 2500) := by decide

theorem test_decode_setGFreq : decode (.cmd 0x130000C800000000) = .ok (.setGFreq 200) := by decide

theorem test_decode_setFreqNext : decode (.cmd 0x200500C800000000) = .ok (.setFreqNext 5 200) := by decide

theorem test_decode_setDutyNext : decode (.cmd 0x21012EE000000000) = .ok (.setDutyNext 1 12000) := by decide

theorem test_decode_setPhaseNext : decode (.cmd 0x220109C400000000) = .ok (.setPhaseNext 1 2500) := by decide

theorem test_decode_rampFreq : decode (.cmd 0x300000C803E80000) = .ok (.rampFreq 0 200 1000 0) := by decide

theorem test_decode_rampDuty : decode (.cmd 0x31021D4C03E800FA) = .ok (.rampDuty 2 7500 1000 250) := by decide

theorem test_decode_rampPhase : decode (.cmd 0x320109C401F40000) = .ok (.rampPhase 1 2500 500 0) := by decide

theorem test_decode_get : decode (.cmd 0x4001000600000000) = .ok (.get 1 0x0006) := by decide

theorem test_decode_link3 : decode (.link 0xA5007D) = .ok (.link3 0xA5 0x00 0x7D) := by decide

/-- Vectors E2 to E8. -/
theorem test_reserved_words :
    [0x0000000000000001, 0x0100000000000001, 0x100000C800000001, 0x100000C800010000, 0x1301006400000000,
      0x4000000000000001].map decodeCmd = List.replicate 6 (.error .nonzeroField) ∧
    [0xFF00000000000000, 0x0400000000000000, 0x1400000000000000, 0x2300000000000000, 0x3300000000000000,
      0x4100000000000000].map decodeCmd = List.replicate 6 (.error .opcode) := by decide

theorem test_encode_words :
    encode (.setFreq 0 200) = .cmd 0x100000C800000000 ∧ encode (.rampDuty 2 7500 1000 250) = .cmd 0x31021D4C03E800FA ∧
    encode (.get 1 0x0006) = .cmd 0x4001000600000000 ∧ encode (.link3 0xA5 0x00 0xC8) = .link 0xA500C8 := by decide

theorem test_decodeTableWord :
    decodeTableWord 64 0x130000C800000000 = some (.setGFreq 200) ∧
    decodeTableWord 24 0xA5007D = some (.link3 0xA5 0x00 0x7D) ∧ decodeTableWord 64 0x0400000000000000 = none := by decide

/-- 20_memory.md R44 (2): the opcode byte arrives first, and seven bytes are no command. -/
theorem test_cmdOfBytes :
    cmdOfBytes [0x31, 0x02, 0x1D, 0x4C, 0x03, 0xE8, 0x00, 0xFA] = some 0x31021D4C03E800FA ∧
    cmdOfBytes [0x31, 0x02, 0x1D, 0x4C, 0x03, 0xE8, 0x00] = none := by decide

/-! ## The timing model (95_test_vectors.md section 2) -/

/-- M1, M3, M7, M10. -/
theorem test_period : [1, 7, 333, 65535].map (fun f => periodOf f) = [10000000, 1428571, 30030, 152] := by decide

/-- M13, M14, M17, M21, M23. -/
theorem test_window :
    windowOf 100000 5000 7500 = ⟨75000, 25000, true⟩ ∧ windowOf 100000 5000 5000 = ⟨50000, 100000, false⟩ ∧
    windowOf 100000 10000 1 = ⟨10, 10, true⟩ ∧ windowOf 3333333 3333 3333 = ⟨1110999, 2221998, false⟩ ∧
    windowOf 152 1 0 = ⟨0, 0, false⟩ := by decide

theorem test_active :
    [0, 24999, 25000, 74999, 75000, 99999].map (fun x => activeAt x 75000 25000 true) =
      [true, true, false, false, true, true] := by decide

/-! ## One or two vectors per instruction -/

/-- T21, by a step. -/
theorem test_nop :
    after (step ((State.resetOf (one 0 0)).withFetchWord 64 0)) (fun t => t == State.resetOf (one 0 0)) = true := by decide

/-- R71. -/
theorem test_begin :
    after (exec .begin { State.resetOf (one 0 0) with nowUs := 5000 }) (fun t =>
      t.run && t.lastTick == 5000 && t.refTime == 5000 && t.lastEvt == 5000 && t.lastEmit == 5000) = true := by decide

/-- T20: a second BEGIN changes nothing. -/
theorem test_begin_again :
    after (exec .begin { begun (one 0 0) with nowUs := 9000 }) (fun t => t.lastTick == 0 && t.lastEmit == 0) = true := by
  decide

/-- T2. -/
theorem test_tick :
    after (exec .tick { begun (one 5000 0) with nowUs := 10000 }) (fun t =>
      (t.chan 0).pos == 10000 && t.lastTick == 10000 && t.trace == [.pinWrite 0 true]) = true := by decide

/-- Y4: a late master emits once and restarts its schedule. -/
theorem test_tick_master_late :
    after (exec .tick { begun { one 0 0 with role := .master, syncIvl := 1000 } with lastEmit := 2100, nowUs := 4500 })
      (fun t => t.lastEmit == 4500 && t.trace == [.syncPulse]) = true := by decide

/-- R113's worked example. -/
theorem test_sched :
    after (exec .sched (positions [25000] { begun (one 0 0) with
        chans := [{ Channel.atReset 100 0 0 with pendFreq := 200, dirtyF := true }] })) (fun t =>
      (t.chan 0).freq == 200 && (t.chan 0).period == 50000 && (t.chan 0).pos == 12500 && !(t.chan 0).dirtyF) = true := by
  decide

/-- Q24: the pending value first, then the ramp, in one pass. -/
theorem test_sched_pending_then_ramp :
    after (exec .sched { begun (one 0 0) with
        nowMs := 500
        chans := [{ Channel.atReset 100 0 0 with
          pendDuty := 1000, dirtyD := true, rampD := ⟨true, 0, 8000, 0, 0, 1000⟩ }] }) (fun t =>
      (t.chan 0).duty == 4000 && !(t.chan 0).dirtyD && (t.chan 0).rampD.act) = true := by decide

/-- C1: the source's scenario. -/
theorem test_setFreq :
    after (exec (.setFreq 0 200) (positions [25000, 60000] (State.resetOf (params 2 100 0 0)))) (fun t =>
      t.chans.map Channel.freq == [200, 100] && t.chans.map Channel.pos == [12500, 60000]) = true := by decide

/-- C7, C8: a value 0, a channel out of range. -/
theorem test_setFreq_rejected :
    after (exec (.setFreq 1 0) (begun (params 2 100 0 0))) (fun t => t == begun (params 2 100 0 0)) = true ∧
    after (exec (.setFreq 2 200) (begun (params 2 100 0 0))) (fun t => t == begun (params 2 100 0 0)) = true := by decide

/-- C10. -/
theorem test_setGFreq :
    after (exec (.setGFreq 200) (positions [25000, 60000]
        (State.resetOf { params 2 100 0 0 with initFreq := [100, 50] }))) (fun t =>
      t.chans.map Channel.period == [50000, 50000] && t.chans.map Channel.pos == [12500, 15000]) = true := by decide

/-- C11, C12: the clamp. -/
theorem test_setDuty :
    after (exec (.setDuty 1 5000) (State.resetOf (params 2 100 0 0))) (fun t => (t.chan 1).endUs == 50000) = true ∧
    after (exec (.setDuty 1 20000) (State.resetOf (params 2 100 0 0))) (fun t => (t.chan 1).duty == 10000) = true := by
  decide

/-- S2, and R82's wrapped window. -/
theorem test_setPhase :
    after (exec (.setPhase 0 2500) (State.resetOf (one 5000 0))) (fun t =>
      (t.chan 0).startUs == 25000 && (t.chan 0).endUs == 75000) = true ∧
    after (exec (.setPhase 0 7500) (State.resetOf (one 5000 0))) (fun t =>
      (t.chan 0).startUs == 75000 && (t.chan 0).endUs == 25000 && (t.chan 0).wraps) = true := by decide

/-- C15: the phase commands are no-ops on a master. -/
theorem test_setPhase_master :
    after (exec (.setPhase 0 2500) (begun { one 0 0 with role := .master })) (fun t => (t.chan 0).phase == 0) = true := by
  decide

/-- Q1; and that it ends a frequency ramp (R116). -/
theorem test_setFreqNext :
    after (exec (.setFreqNext 0 200) { begun (one 0 0) with
        chans := [{ Channel.atReset 100 0 0 with rampF := ⟨true, 100, 300, 0, 0, 9⟩ }] }) (fun t =>
      (t.chan 0).pendFreq == 200 && (t.chan 0).dirtyF && (t.chan 0).freq == 100 && !(t.chan 0).rampF.act) = true := by
  decide

/-- Q2. -/
theorem test_setDutyNext :
    after (exec (.setDutyNext 1 12000) (begun (params 2 100 0 0))) (fun t =>
      (t.chan 1).pendDuty == 10000 && (t.chan 1).dirtyD && (t.chan 1).duty == 0) = true := by decide

/-- Q3. -/
theorem test_setPhaseNext :
    after (exec (.setPhaseNext 1 2500) (begun (params 2 100 0 0))) (fun t =>
      (t.chan 1).pendPhase == 2500 && (t.chan 1).dirtyP && (t.chan 1).phase == 0) = true := by decide

/-- Q10. -/
theorem test_rampFreq :
    after (exec (.rampFreq 0 200 1000 0) (begun (one 0 0))) (fun t =>
      (t.chan 0).rampF == ⟨true, 100, 200, 0, 0, 1000⟩ && (t.chan 0).freq == 100) = true := by decide

/-- Q14: no delay and no duration set at once. -/
theorem test_rampDuty :
    after (exec (.rampDuty 0 4000 0 0) { State.resetOf (one 0 0) with nowMs := 5 }) (fun t =>
      (t.chan 0).duty == 4000 && !(t.chan 0).rampD.act) = true := by decide

/-- Q15: a delay and no duration is recorded. -/
theorem test_rampDuty_delay :
    after (exec (.rampDuty 0 6000 0 50) { begun (one 4000 0) with nowMs := 10 }) (fun t =>
      (t.chan 0).rampD == ⟨true, 4000, 6000, 10, 50, 0⟩ && (t.chan 0).duty == 4000) = true := by decide

/-- Q12, at the pass of 250 milliseconds. -/
theorem test_rampPhase :
    after (exec (.rampPhase 1 2500 500 0) (begun (params 2 100 0 0))) (fun t =>
      after (exec .sched { t with nowMs := 250 }) (fun u => (u.chan 1).phase == 1250 && (u.chan 1).startUs == 12500)) =
      true := by decide

/-- R115's examples. -/
theorem test_interp :
    interp 7500 2500 333 1000 = 5835 ∧ interp 200 100 1 3 = 167 ∧ interp 0 65535 65534 65535 = 65534 := by decide

/-- G1, G3, G4, G6. -/
theorem test_get_channel :
    outs (exec (.get 1 0x0006) (positions [0, 12500] (State.resetOf (params 2 100 0 0)))) = [.resp 0x000030D4] ∧
    outs (exec (.get 2 0x0000) (State.resetOf (params 2 100 0 0))) = [.resp 0] ∧
    outs (exec (.get 1 0x0080) (State.resetOf (params 2 100 0 0))) = [.resp 0] := by decide

/-- G9, G11, G12, G14. -/
theorem test_get_global :
    outs (exec (.get 0 0x008C) (State.resetOf (params 2 100 0 0))) = [.resp 0xA5030A21] ∧
    outs (exec (.get 0 0x00C7) (State.resetOf (params 2 100 0 0))) = [.resp 0x000F4240] ∧
    outs (exec (.get 0 0x00C8) (State.resetOf (params 2 100 0 0))) = [.resp 0] ∧
    outs (exec (.get 0 0x0080) { begun { one 0 0 with role := .client, link := .msg, schedTicks := true } with
      rxst := .gotMarker }) = [.resp 0x000000B9] := by decide

/-- A client of one accumulator channel at 2500 Hz on a link with an interval of 1000 (section 5). -/
def client (link : Link) (nudge : Bool) : State :=
  begun { params 1 25000 0 0 with role := .client, link := link, syncIvl := 1000, nudge := nudge }

/-- Y22 c, d: a packet received in step; the first event, and the adoption. -/
theorem test_link3 :
    after (exec (.link3 0xA5 0x00 0xC8) { client .msg true with nowUs := 2000030 }) (fun t =>
      t.rxst == .idle && t.synced && t.lastEvt == 2000030 && (t.chan 0).freq == 200 && (t.chan 0).pos == 0) = true := by
  decide

/-- R100: a byte that is no marker is dropped while the deframer is idle. -/
theorem test_link3_no_marker :
    after (exec (.link3 0x00 0x00 0xA5) (client .msg true)) (fun t => t.rxst == .gotMarker && !t.synced) = true := by
  decide

/-- Y6, the lower edge of the band of k = 2. -/
theorem test_edge_missed :
    after (serveEvent .syncEdge (positions [7] { client .pulse false with synced := true, lastEvt := 100, nowUs := 1600 }))
      (fun t => t.buf.head? == some 750 && t.head == 1 && t.avg == 968 && (t.chan 0).pos == 7) = true := by decide

/-- Y15: a negative error moves the position forward. -/
theorem test_edge_nudge :
    after (serveEvent .syncEdge (positions [395] { client .pulse true with synced := true, lastEvt := 100, nowUs := 1090 }))
      (fun t => (t.chan 0).pos == 5 && t.lastEvt == 1090) = true := by decide

/-- R125: the order of one instant; R136: a RESET discards what waits. -/
theorem test_arrivals :
    after (step { State.reset with env := [.arrive ⟨7, 8, false, true, none, true, true, some 0⟩] })
      (fun t => t.waiting == [⟨.syncEdge, 7, 8⟩, ⟨.tickIn, 7, 8⟩, ⟨.schedIn, 7, 8⟩, ⟨.cmd 0, 7, 8⟩]) = true ∧
    after (step { begun Params.default with
        waiting := [⟨.tickIn, 1, 1⟩], env := [.arrive ⟨7, 8, true, false, none, false, false, none⟩] })
      (fun t => t == State.reset) = true := by decide

/-! ## Witnesses: states and operands that meet the hypotheses of the statements, clause by clause -/

/-- The fields of `ChannelInv` as one conjunction that can be decided. -/
abbrev ChannelFacts (p : Params) (c : Channel) : Prop :=
  (FreqInRange p c.freq ∧ c.duty.toNat ≤ 10000 ∧ c.phase.toNat ≤ 9999 ∧ (p.role = .master → c.phase = 0) ∧
    c.period.toNat = 10000000 / c.freq.toNat ∧ 152 ≤ c.period.toNat ∧ c.period.toNat ≤ 10000000) ∧
  (WindowIs c ∧ c.startUs.toNat < c.period.toNat ∧ c.endUs.toNat ≤ c.period.toNat ∧ c.pos.toNat < c.period.toNat) ∧
  ((p.role = .client → c.rampF.act = false ∧ c.dirtyF = false) ∧
    (p.role = .master → c.rampP.act = false ∧ c.dirtyP = false)) ∧
  (c.pendDuty.toNat ≤ 10000 ∧ c.pendPhase.toNat ≤ 9999 ∧ (c.pendFreq = 0 ∨ FreqInRange p c.pendFreq) ∧
    c.rampD.target.toNat ≤ 10000 ∧ c.rampP.target.toNat ≤ 9999 ∧
    (c.rampF.act = true → FreqInRange p c.rampF.start ∧ FreqInRange p c.rampF.target) ∧
    (c.dirtyF = true → FreqInRange p c.pendFreq))

theorem channelInv_of {p : Params} {c : Channel} (h : ChannelFacts p c) : ChannelInv p c := by
  obtain ⟨⟨a1, a2, a3, a4, a5, a6, a7⟩, ⟨b1, b2, b3, b4⟩, ⟨c1, c2⟩, d1, d2, d3, d4, d5, d6, d7⟩ := h
  exact ⟨a1, a2, a3, a4, a5, a6, a7, b1, b2, b3, b4, c1, c2, d1, d2, d3, d4, d5, d6, d7⟩

theorem inv_of {s : State} (h : (s.cfg.legal = true ∧ s.chans.length = s.cfg.nch) ∧
    (∀ c ∈ s.chans, ChannelFacts s.cfg c) ∧ s.buf.length = s.cfg.nbuf ∧ s.head < s.cfg.nbuf ∧
    s.avg.toNat = (s.buf.map BitVec.toNat).sum / s.cfg.nbuf ∧ (rxstCode s.rxst).toNat ≤ 2) : Inv s :=
  ⟨h.1.1, h.1.2, fun c hc => channelInv_of (h.2.1 c hc), h.2.2.1, h.2.2.2.1, h.2.2.2.2.1, h.2.2.2.2.2⟩

/-- Two channels, frequencies 50 to 500, 50 % duty from 75 % of the cycle on (the window wraps). -/
def limited : Params := { params 2 100 5000 7500 with freqMin := 50, freqMax := 500 }

/-- A running master of one channel with an interval of 1000. -/
def master : State := begun { one 5000 0 with role := .master, syncIvl := 1000 }

/-- A running client of `limited` on the given link. -/
def clientOf (link : Link) : State := begun { limited with role := .client, link := link }

theorem inv_stopped : Inv (State.resetOf limited) := inv_of (by decide)

theorem inv_limited : Inv (begun limited) := inv_of (by decide)

theorem inv_master : Inv master := inv_of (by decide)

theorem inv_clientPulse : Inv (clientOf .pulse) := inv_of (by decide)

theorem inv_clientMsg : Inv (clientOf .msg) := inv_of (by decide)

theorem test_witness_EncodeOfDecodeIsTheWord :
    decode (.cmd 0x31021D4C03E800FA) = .ok (.rampDuty 2 7500 1000 250) ∧
    decode (.link 0xA5007D) = .ok (.link3 0xA5 0x00 0x7D) := by decide

theorem test_witness_CommandWordsDecodeByMaskAndMatch :
    ∃ r ∈ opcodeRows 0x1001012C00000000, RowMatches 0x1001012C00000000 r ∧ r.2.2 = .setFreq 1 300 := by decide

/-- Every kind of event, with an empty environment list and with an explicit move to serve; a word that decodes and
one that does not. -/
theorem test_witness_StepRunsTheDecodedCommand :
    (∀ e ∈ [.syncEdge, .syncByte 0xA5, .packet 0xA5007D, .tickIn, .schedIn, .cmd 0x0100000000000000, .cmd 1],
      (∃ s : State, s.cfg.legal = true ∧ s.waiting = [⟨e, 5, 6⟩] ∧ s.env = []) ∧
      ∃ s : State, s.cfg.legal = true ∧ s.waiting = [⟨e, 5, 6⟩] ∧ s.env = [.serve]) ∧
    decodeCmd 0x0100000000000000 = .ok .begin ∧ decode (.link 0xA5007D) = .ok (.link3 0xA5 0x00 0x7D) :=
  ⟨fun e _ => ⟨⟨{ State.reset with waiting := [⟨e, 5, 6⟩] }, test_default_is_legal, rfl, rfl⟩,
    { State.reset with waiting := [⟨e, 5, 6⟩], env := [.serve] }, test_default_is_legal, rfl, rfl⟩, by decide, by decide⟩

/-- 20_memory.md R43: a waiting TICK_IN, SCHED_IN and SYNC_EDGE are each served with their own time stamps. -/
theorem test_waiting_events_served :
    after (step { begun limited with waiting := [⟨.tickIn, 10, 3⟩], nowUs := 900 })
      (fun t => t.lastTick == 10 && t.nowMs == 3 && t.waiting == []) = true ∧
    after (step { begun limited with
        chans := (begun limited).chans.map fun c => { c with pendDuty := 7, dirtyD := true },
        waiting := [⟨.schedIn, 10, 3⟩], env := [.serve] }) (fun t => (t.chan 1).duty == 7 && t.env == []) = true ∧
    after (step { clientOf .pulse with waiting := [⟨.syncEdge, 77, 3⟩], nowUs := 900 })
      (fun t => t.lastEvt == 77 && t.synced) = true ∧
    after (step { clientOf .msg with waiting := [⟨.syncByte 0xA5, 77, 3⟩] }) (fun t => t.rxst == .gotMarker) = true := by
  decide

/-- Each clause, for a word with a field that must be zero and for an opcode that is not one of the fifteen. -/
theorem test_witness_ReservedWordIsIgnored :
    (∀ w ∈ [0x0100000000000001, 0xFF00000000000000],
      (∃ s : State, s.cfg.legal = true ∧ s.waiting = [⟨.cmd w, 5, 6⟩] ∧ s.env = []) ∧
      (∃ s : State, s.cfg.legal = true ∧ s.waiting = [⟨.cmd w, 5, 6⟩] ∧ s.env = [.serve])) ∧
    (∀ r ∈ opcodeRows 0x0100000000000001, ¬ RowMatches 0x0100000000000001 r) ∧
    (∀ r ∈ opcodeRows 0xFF00000000000000, ¬ RowMatches 0xFF00000000000000 r) :=
  ⟨fun w _ => ⟨⟨{ State.reset with waiting := [⟨.cmd w, 5, 6⟩] }, test_default_is_legal, rfl, rfl⟩,
    { State.reset with waiting := [⟨.cmd w, 5, 6⟩], env := [.serve] }, test_default_is_legal, rfl, rfl⟩,
    by decide, by decide⟩

theorem test_witness_PlacedInstructionRunsNext :
    State.reset.cfg.legal = true ∧ decodeTableWord 64 0x0100000000000000 = some .begin ∧
    decodeTableWord 24 0xA5007D = some (.link3 0xA5 0x00 0x7D) := by decide

theorem test_witness_NoEventNoChange :
    State.reset.cfg.legal = true ∧ State.reset.env = [] ∧ State.reset.waiting = [] := by decide

theorem test_witness_ArrivalsQueueInServiceOrder :
    ∃ (s : State) (a : Arrivals), s.cfg.legal = true ∧ s.env = [.arrive a] ∧ a.reset = false :=
  ⟨{ State.reset with env := [.arrive ⟨7, 8, false, true, some 1, true, true, some 0⟩] },
    ⟨7, 8, false, true, some 1, true, true, some 0⟩, by decide, rfl, rfl⟩

theorem test_witness_ResetRestoresEveryRegister :
    ∃ (s : State) (a : Arrivals), s.cfg.legal = true ∧ s.env = [.arrive a] ∧ a.reset = true ∧ s.run = true :=
  ⟨{ begun limited with env := [.arrive ⟨7, 8, true, true, some 1, true, true, some 0⟩] },
    ⟨7, 8, true, true, some 1, true, true, some 0⟩, by decide, rfl, rfl, rfl⟩

theorem test_witness_ResetStateHoldsTheTable : limited.legal = true ∧ master.cfg.legal = true := by decide

/-- The ends of the ranges of 00_scope.md R6. -/
theorem test_witness_EveryLegalInstanceResetsIntoTheInvariants :
    ({ params 16 1 10000 9999 with nbuf := 64 } : Params).legal = true ∧
    ({ params 1 65535 0 0 with nbuf := 1, role := .master, syncIvl := 0xFFFFFFFF } : Params).legal = true := by decide

theorem test_witness_EveryStepKeepsTheInvariants :
    (Inv { begun limited with waiting := [⟨.tickIn, 10, 0⟩] } ∧
      ∃ t, step { begun limited with waiting := [⟨.tickIn, 10, 0⟩] } = .next t ∧ t ≠ begun limited) ∧
    (Inv ((begun limited).withFetchWord 64 0x200000C800000000) ∧
      ∃ t, step ((begun limited).withFetchWord 64 0x200000C800000000) = .next t) :=
  ⟨⟨inv_of (by decide), _, rfl, by decide⟩, inv_of (by decide), _, rfl⟩

theorem test_witness_LegalInstanceNeverStops : State.reset.cfg.legal = true ∧ (clientOf .msg).cfg.legal = true := by decide

theorem test_witness_IllegalInstanceIsRefused : (State.resetOf (params 0 100 0 0)).cfg.legal = false := by decide

theorem test_witness_ParametersNeverChange : ∃ t, step ((begun limited).withFetchWord 64 0x1101138800000000) = .next t :=
  ⟨_, rfl⟩

theorem test_witness_OnlyResetClearsRun :
    ∃ s t : State, step s = .next t ∧ s.run = true ∧ ¬ ResetArrives s :=
  ⟨begun limited, begun limited, rfl, rfl, fun ⟨_, _, h, _⟩ => nomatch h⟩

theorem test_witness_OnlyResetClearsSynced :
    ∃ s t : State, step s = .next t ∧ s.synced = true ∧ ¬ ResetArrives s :=
  ⟨{ clientOf .pulse with synced := true }, { clientOf .pulse with synced := true }, rfl, rfl,
    fun ⟨_, _, h, _⟩ => nomatch h⟩

theorem test_witness_OutputLatchChangesOnlyInTicks :
    (begun limited).cfg.schedTicks = false ∧ (∃ t, exec .sched (begun limited) = .next t) ∧
    (∃ t, exec (.setDuty 0 1) (begun limited) = .next t) ∧ (∃ t, exec (.link3 0xA5 0 0) (clientOf .msg) = .next t) :=
  ⟨by decide, ⟨_, rfl⟩, ⟨_, rfl⟩, ⟨_, rfl⟩⟩

theorem test_witness_ClientFrequencyChangesOnlyByTheLink :
    Inv (clientOf .pulse) ∧ (clientOf .pulse).cfg.role = .client ∧ (∃ t, exec .sched (clientOf .pulse) = .next t) ∧
    (∃ t, exec (.setFreq 0 200) (clientOf .pulse) = .next t) :=
  ⟨inv_clientPulse, rfl, ⟨_, rfl⟩, ⟨_, rfl⟩⟩

theorem test_witness_AverageIsReadOnlyByGetAndCapture :
    (∃ t, exec .tick (clientOf .pulse) = .next t) ∧ (∃ t, exec .sched (clientOf .pulse) = .next t) :=
  ⟨⟨_, rfl⟩, ⟨_, rfl⟩⟩

theorem test_witness_NopChangesNothing : decodeCmd 0x0000000000000001 = .error .nonzeroField := by decide

/-- Stopped; running; a master before its interval, at it, and at twice the interval. -/
theorem test_witness_TickAdvancesEveryChannel :
    (Inv (State.resetOf limited) ∧ (State.resetOf limited).run = false) ∧
    (Inv (begun limited) ∧ (begun limited).run = true) ∧
    (Inv { master with nowUs := 999 } ∧ Inv { master with nowUs := 1000 } ∧ Inv { master with nowUs := 2000 }) ∧
    (elapsed 999 master.lastEmit = 999 ∧ elapsed 1000 master.lastEmit = 1000 ∧ elapsed 2000 master.lastEmit = 2000) :=
  ⟨⟨inv_stopped, rfl⟩, ⟨inv_limited, rfl⟩, ⟨inv_of (by decide), inv_of (by decide), inv_of (by decide)⟩, by decide⟩

/-- Gaps of exactly twice the period of 100000. -/
theorem test_witness_TicksIntegrateTimeExactly :
    Inv (begun limited) ∧ (begun limited).run = true ∧
    (∃ c, (begun limited).chans[1]? = some c ∧ c.period = 100000) ∧
    (begun limited).cfg.absMask.getLsbD 1 = false ∧
    (∀ g ∈ gaps (begun limited).lastTick [200000, 400000, 400001], g ≤ 2 * 100000) :=
  ⟨inv_limited, rfl, ⟨_, rfl, by decide⟩, by decide, by decide⟩

/-- A window that wraps (vector M24), one that ends at the period (M14), an empty one (M15). -/
theorem test_witness_ActivePositionsNumberTheWidth :
    ChannelInv Params.default (Channel.atReset 333 2500 8000) ∧
    ChannelInv Params.default (Channel.atReset 100 5000 5000) ∧
    ChannelInv Params.default (Channel.atReset 100 0 9999) :=
  ⟨channelInv_of (by decide), channelInv_of (by decide), channelInv_of (by decide)⟩

/-- Stopped; a pass that ticks and one that does not, with pending values and ramps. -/
theorem test_witness_SchedulerPassAppliesTicksAndRamps :
    (Inv (State.resetOf limited) ∧ (State.resetOf limited).run = false) ∧
    (∃ s : State, Inv s ∧ s.run = true ∧ s.cfg.schedTicks = true) ∧
    (∃ s : State, Inv s ∧ s.run = true ∧ s.cfg.schedTicks = false ∧
      ∃ c ∈ s.chans, c.dirtyF = true ∧ c.dirtyD = true ∧ c.rampP.act = true) :=
  ⟨⟨inv_stopped, rfl⟩,
    ⟨begun { limited with schedTicks := true }, inv_of (by decide), rfl, rfl⟩,
    ⟨{ begun limited with
        chans := List.replicate 2 { Channel.atReset 100 5000 0 with
          pendFreq := 500, dirtyF := true, pendDuty := 10000, dirtyD := true, rampP := ⟨true, 0, 9999, 0, 0, 1⟩ } },
      inv_of (by decide), rfl, rfl, by decide⟩⟩

/-- The clauses of a command with a channel and a frequency: index NCH; a client; below and above the range; the
two ends of the range on the last channel. -/
abbrev FrequencyClauses : Prop :=
  (Inv (begun limited) ∧ (begun limited).cfg.nch ≤ (2 : Byte).toNat ∧ ¬ (begun limited).cfg.nch ≤ (1 : Byte).toNat) ∧
  (Inv (clientOf .pulse) ∧ (clientOf .pulse).cfg.role = .client ∧ (begun limited).cfg.role ≠ .client) ∧
  ((49 : U16).toNat < limited.freqMin.toNat ∧ limited.freqMax.toNat < (501 : U16).toNat) ∧
  (FreqInRange limited 50 ∧ FreqInRange limited 500)

/-- The clauses of a command with a channel and a phase: index NCH; a master; effective on the last channel. -/
abbrev PhaseClauses : Prop :=
  (Inv (begun limited) ∧ (begun limited).cfg.nch ≤ (2 : Byte).toNat ∧ ¬ (begun limited).cfg.nch ≤ (1 : Byte).toNat) ∧
  (Inv master ∧ ¬ master.cfg.nch ≤ (0 : Byte).toNat ∧ master.cfg.role = .master) ∧ (begun limited).cfg.role ≠ .master

/-- The clauses of a command with a channel and a duty: index NCH; effective on the last channel. -/
abbrev DutyClauses : Prop :=
  Inv (begun limited) ∧ (begun limited).cfg.nch ≤ (2 : Byte).toNat ∧ ¬ (begun limited).cfg.nch ≤ (1 : Byte).toNat

theorem test_witness_SetFreqSetsOneFrequency : FrequencyClauses :=
  ⟨⟨inv_limited, by decide⟩, ⟨inv_clientPulse, by decide⟩, by decide, by decide⟩

theorem test_witness_SetGFreqSetsEveryFrequency : FrequencyClauses := test_witness_SetFreqSetsOneFrequency

theorem test_witness_SetFreqNextStoresOnePendingFrequency : FrequencyClauses := test_witness_SetFreqSetsOneFrequency

/-- Also: at once with no delay and no duration, recorded otherwise. -/
theorem test_witness_RampFreqRecordsOrSetsAtOnce :
    FrequencyClauses ∧ ((0 : U16).toNat = 0 ∧ (0 : U16).toNat = 0) ∧ ¬ ((0 : U16).toNat = 0 ∧ (1 : U16).toNat = 0) :=
  ⟨test_witness_SetFreqSetsOneFrequency, by decide⟩

theorem test_witness_SetDutySetsOneDuty : DutyClauses := ⟨inv_limited, by decide⟩

theorem test_witness_SetDutyNextStoresOnePendingDuty : DutyClauses := ⟨inv_limited, by decide⟩

theorem test_witness_RampDutyRecordsOrSetsAtOnce : DutyClauses := ⟨inv_limited, by decide⟩

theorem test_witness_SetPhaseSetsOnePhase : PhaseClauses := ⟨⟨inv_limited, by decide⟩, ⟨inv_master, by decide⟩, by decide⟩

theorem test_witness_SetPhaseNextStoresOnePendingPhase : PhaseClauses := test_witness_SetPhaseSetsOnePhase

theorem test_witness_RampPhaseRecordsOrSetsAtOnce : PhaseClauses := test_witness_SetPhaseSetsOnePhase

theorem test_witness_FrequencyChangeKeepsTheFractionalPosition :
    limited.legal = true ∧ ChannelInv limited { Channel.atReset 100 5000 0 with pos := 99999 } ∧
    FreqInRange limited 50 ∧ FreqInRange limited 500 ∧ FreqInRange limited 100 :=
  ⟨by decide, channelInv_of (by decide), by decide⟩

theorem test_witness_InterpolationIsMonotoneBetweenItsEnds : (0 : Nat) ≤ 999 ∧ (999 : Nat) < 1000 := by decide

/-- `limited` with a duty pending and a duty ramp of delay 250 and duration 1000 active on both channels, at `ms`. -/
def ramping (ticks : Bool) (ms : U32) : State :=
  { begun { limited with schedTicks := ticks } with
    nowMs := ms
    chans := List.replicate 2 { Channel.atReset 100 5000 7500 with
      rampD := ⟨true, 5000, 10000, 0, 250, 1000⟩, pendDuty := 1, dirtyD := true } }

/-- An active ramp, a duty pending, passes that tick and that do not: just before the end and at it. Then a ramp on
the last channel with passes before its end, the last one just before it, and a pass at it; and the target
set at once, with no duty pending. -/
theorem test_witness_DutyRampReachesItsTargetAndEnds :
    (∀ ticks ∈ [false, true], ∀ ms ∈ [1249, 1250], Inv (ramping ticks ms) ∧ (ramping ticks ms).run = true ∧
      ∃ c, (ramping ticks ms).chans[1]? = some c ∧ c.rampD.act = true ∧ c.dirtyD = true) ∧
    (elapsed 1249 0 < 250 + 1000 ∧ 250 + 1000 ≤ elapsed 1250 0) ∧
    (Inv (ramping true 0) ∧ (1 : Byte).toNat < (ramping true 0).cfg.nch ∧
      (∀ x ∈ ([(0, 0), (7, 1249)] : List (U32 × U32)), elapsed x.2 (ramping true 0).nowMs < 250 + 1000) ∧
      250 + 1000 ≤ elapsed 1250 (ramping true 0).nowMs) ∧
    (Inv (begun limited) ∧ (∀ c, (begun limited).chans[1]? = some c → c.dirtyD = false) ∧
      (0 : U16).toNat + (0 : U16).toNat ≤ elapsed 0 (begun limited).nowMs) :=
  ⟨by
    intro ticks _ ms hm
    obtain rfl | rfl : ms = 1249 ∨ ms = 1250 := by simpa using hm
    all_goals cases ticks <;> exact ⟨inv_of (by decide), rfl, _, rfl, by decide, by decide⟩,
    by decide, ⟨inv_of (by decide), by decide, by simp [ramping, elapsed], by decide⟩, inv_limited, fun _ h => Option.some.inj h ▸ rfl, by decide⟩

theorem test_witness_ChannelSelectorsAnswerTheirRegisters :
    Inv (begun limited) ∧ (1 : Byte).toNat < (begun limited).cfg.nch ∧ ∃ c, (begun limited).chans[1]? = some c :=
  ⟨inv_limited, by decide, _, rfl⟩

/-- The first and the last entry of the ring buffer. -/
theorem test_witness_GlobalSelectorsAnswerTheirRegisters :
    Inv (begun limited) ∧ (∃ x, (begun limited).buf[0]? = some x) ∧ ∃ x, (begun limited).buf[7]? = some x :=
  ⟨inv_limited, ⟨_, rfl⟩, _, rfl⟩

/-- The selectors just outside the map, a channel NCH, a global selector of a channel other than 0. -/
theorem test_witness_UndefinedSelectorsAnswerZero :
    (∀ x ∈ [(0x000D, 0), (0x0015, 0), (0x0025, 0), (0x007F, 0), (0x008F, 0), (0x00BF, 0), (0x00C8, 0), (0, 2), (0x0080, 1)],
      ¬ (ChannelSelector x.1 ∧ x.2 < limited.nch) ∧ ¬ (GlobalSelector limited x.1 ∧ x.2 = 0)) := by decide

/-- The first event; an interval at and just below the hard threshold of 10000; events that are ignored. -/
theorem test_witness_SyncEdgeCapturesOnAPulseClient :
    (Inv (client .pulse true) ∧ (client .pulse true).run = true ∧ (client .pulse true).cfg.role = .client ∧
      (client .pulse true).cfg.link = .pulse ∧ (client .pulse true).synced = false) ∧
    (Inv { client .pulse true with synced := true, nowUs := 10000 } ∧
      Inv { client .pulse true with synced := true, nowUs := 9999 } ∧
      Inv { client .pulse true with synced := true, nowUs := 1500 }) ∧
    (Inv (client .msg true) ∧ (client .msg true).cfg.link ≠ .pulse) ∧ (Inv master ∧ master.cfg.role ≠ .client) :=
  ⟨⟨inv_of (by decide), by decide⟩, ⟨inv_of (by decide), inv_of (by decide), inv_of (by decide)⟩,
    ⟨inv_of (by decide), by decide⟩, inv_master, by decide⟩

/-- The deframer in each state; a byte that is and one that is not the marker; a node that ignores bytes. -/
theorem test_witness_SyncByteRunsTheDeframer :
    (Inv (clientOf .msg) ∧ (clientOf .msg).run = true ∧ (clientOf .msg).cfg.role = .client ∧
      (clientOf .msg).cfg.link = .msg ∧ (clientOf .msg).rxst = .idle ∧ (clientOf .msg).cfg.marker = 0xA5) ∧
    Inv { clientOf .msg with rxst := .gotMarker } ∧ Inv { clientOf .msg with rxst := .gotHi } ∧
    (Inv (clientOf .pulse) ∧ (clientOf .pulse).cfg.link ≠ .msg) :=
  ⟨⟨inv_clientMsg, by decide⟩, inv_of (by decide), inv_of (by decide), inv_clientPulse, by decide⟩

/-- A frequency that is adopted and one that is not. -/
theorem test_witness_LinkPacketInStepCapturesAndAdopts :
    Inv (clientOf .msg) ∧ (clientOf .msg).run = true ∧ (clientOf .msg).cfg.role = .client ∧
    (clientOf .msg).cfg.link = .msg ∧ (clientOf .msg).rxst = .idle ∧ (clientOf .msg).cfg.adopt = true ∧
    FreqInRange (clientOf .msg).cfg 500 ∧ ¬ FreqInRange (clientOf .msg).cfg 501 :=
  ⟨inv_clientMsg, by decide⟩

/-- A synced client with two entries of 1000 in its buffer. -/
def filtering (missMax : BitVec 4) : State :=
  { begun { params 1 25000 0 0 with role := .client, syncIvl := 1000, missMax := missMax, nbuf := 2 } with synced := true }

/-- Two events 1003 apart, with compensation off and with multiples up to 4. -/
theorem test_witness_FilterConvergesToAConstantInterval :
    ∀ k ∈ [1, 4], Inv (filtering k) ∧ (filtering k).run = true ∧ (filtering k).cfg.role = .client ∧
      (filtering k).cfg.link = .pulse ∧ (filtering k).synced = true ∧
      (1003 : U32).toNat < (filtering k).cfg.hardMul.toNat * (filtering k).cfg.syncIvl.toNat ∧
      [1003, 2006].length = (filtering k).cfg.nbuf ∧
      (∀ g ∈ gaps (filtering k).lastEvt [1003, 2006], g = (1003 : U32).toNat) ∧
      ∀ j < (filtering k).cfg.nbuf, ∀ n ≤ (filtering k).cfg.missMax.toNat, 2 ≤ n →
        ((averageAfter (filtering k) 1003 j / 2 ^ (filtering k).cfg.tolSh.toNat : Nat) : Int) <
          |((1003 : U32).toNat : Int) - n * averageAfter (filtering k) 1003 j| := by
  intro k hk
  fin_cases hk <;> exact ⟨inv_of (by decide), by decide⟩

end Sys2Proof.Tests
end

section
/-! PROOFS. The duty-window comparator over one cycle (40_timing_model.md R62, R63): the active positions are an
interval of the cycle, or the complement of one, and number `width`. -/

namespace Sys2Proof.Machine

open Sys2Proof.Safety

/-- The positions of one cycle at which the comparator is active. -/
def activePositions (c : Channel) : Finset Nat :=
  (Finset.range c.period.toNat).filter fun x => activeAt (asWord x) c.startUs c.endUs c.wraps = true

theorem length_filter_activeAt (c : Channel) :
    ((List.range c.period.toNat).filter fun x => activeAt (asWord x) c.startUs c.endUs c.wraps).length =
      (activePositions c).card := by
  simp only [activePositions, Finset.card, Finset.filter_val, Finset.range_val, Multiset.range,
    Multiset.filter_coe, Multiset.coe_card, Bool.decide_eq_true]

/-- A position of the cycle is a word, so the comparator sees it unchanged. -/
theorem mem_activePositions (c : Channel) (x : Nat) :
    x ∈ activePositions c ↔ x < c.period.toNat ∧
      (if c.wraps then c.startUs.toNat ≤ x ∨ x < c.endUs.toNat else c.startUs.toNat ≤ x ∧ x < c.endUs.toNat) := by
  simp only [activePositions, Finset.mem_filter, Finset.mem_range]
  refine and_congr_right fun hx => ?_
  have hword : (asWord x).toNat = x := u32_toNat_of_lt (lt_trans hx c.period.isLt)
  rw [activeAt_iff { c with pos := asWord x }]
  simp only [InWindow, hword]

/-- A window that does not wrap is the interval from its start to its end. -/
theorem activePositions_of_not_wraps {c : Channel} (hw : c.wraps = false) (hend : c.endUs.toNat ≤ c.period.toNat) :
    activePositions c = Finset.Ico c.startUs.toNat c.endUs.toNat := by
  ext x
  simp only [mem_activePositions, hw, Bool.false_eq_true, if_false, Finset.mem_Ico]
  omega

/-- A window that wraps leaves out the interval from its end to its start. -/
theorem activePositions_of_wraps {c : Channel} (hw : c.wraps = true) :
    activePositions c = Finset.range c.period.toNat \ Finset.Ico c.endUs.toNat c.startUs.toNat := by
  ext x
  simp only [mem_activePositions, hw, if_true, Finset.mem_sdiff, Finset.mem_range, Finset.mem_Ico]
  omega

theorem card_range_sdiff_Ico {a b n : Nat} (h : b ≤ n) :
    (Finset.range n \ Finset.Ico a b).card = n - (b - a) := by
  have hsub : Finset.Ico a b ⊆ Finset.range n := fun x hx =>
    Finset.mem_range.mpr (lt_of_lt_of_le (Finset.mem_Ico.mp hx).2 h)
  rw [Finset.card_sdiff_of_subset hsub, Finset.card_range, Nat.card_Ico]

/-- The count that 40_timing_model.md R63 derives from R62: a wrapped window ends `PERIOD - width` before it starts. -/
theorem card_activePositions {p : Params} {c : Channel} (hc : ChannelInv p c) :
    (activePositions c).card = c.period.toNat * c.duty.toNat / 10000 := by
  have hwidth := width_le (P := c.period.toNat) hc.duty
  have hstart := hc.start_lt
  obtain ⟨-, hwindow⟩ := hc.window
  split at hwindow
  · obtain ⟨hend, hwraps⟩ := hwindow
    rw [activePositions_of_wraps hwraps, card_range_sdiff_Ico hstart.le]
    omega
  · obtain ⟨hend, hwraps⟩ := hwindow
    rw [activePositions_of_not_wraps hwraps hc.end_le, Nat.card_Ico]
    omega

/-- Settles O26: the comparator is the window's own test at every position, and the active positions of a cycle are
counted as an interval, or as the complement of one when the window wraps. -/
theorem activePositionsNumberTheWidth : Obligations.ActivePositionsNumberTheWidth := by
  intro p c hc
  refine ⟨fun x => activeAt_iff { c with pos := x }, ?_⟩
  rw [length_filter_activeAt, card_activePositions hc]

end Sys2Proof.Machine
end

section
/-! PROOFS. The commands of the Phase Accumulator Engine (41_phase_accumulator.md R71, R72, R74): one equation per
branch of NOP, BEGIN and TICK, and of the events that do the same. -/

namespace Sys2Proof.Machine

open Sys2Proof.Safety

/-! ## NOP and the reserved encodings -/

theorem exec_nop (s : State) : exec .nop s = .next s := rfl

/-- A reserved encoding is consumed without effect (30_encoding.md R54). -/
theorem serveEvent_cmd_of_decodeCmd_error {w : CmdWord} {e : Reserved} (h : decodeCmd w = .error e) (s : State) :
    serveEvent (.cmd w) s = .next s := by
  simp only [serveEvent, h, ignoreReserved]

/-- Settles O22: NOP and the service of a reserved encoding both answer the state as it was. -/
theorem nopChangesNothing : Obligations.NopChangesNothing := by
  refine ⟨by decide, exec_nop, fun s w e hreserved => ?_⟩
  rw [serveEvent_cmd_of_decodeCmd_error hreserved, exec_nop]

/-! ## BEGIN -/

theorem exec_begin_of_run {s : State} (h : s.run = true) : exec .begin s = .next s := if_pos h

theorem exec_begin_of_not_run {s : State} (h : ¬ s.run = true) :
    exec .begin s = .next { s with run := true, lastTick := s.nowUs, refTime := s.nowUs, lastEvt := s.nowUs,
                                   lastEmit := s.nowUs } := if_neg h

/-- Settles O23, by cases on `RUN`. -/
theorem beginStartsTheBlockOnce : Obligations.BeginStartsTheBlockOnce := by
  refine ⟨by decide, fun s => ?_⟩
  split
  case isTrue hrun => exact exec_begin_of_run hrun
  case isFalse hrun => exact exec_begin_of_not_run hrun

/-! ## TICK and TICK_IN -/

theorem exec_tick (s : State) : exec .tick s = .next (tick s.nowUs s) := rfl

theorem serveEvent_tickIn (s : State) : serveEvent .tickIn s = .next (tick s.nowUs s) := rfl

/-- Before BEGIN a tick does nothing (41_phase_accumulator.md R73). -/
theorem tick_of_not_run {s : State} (h : s.run = false) (now : U32) : tick now s = s :=
  if_neg (by rw [h]; exact Bool.false_ne_true)

/-- Settles O24: the command and the event run the one procedure `tick`, which does nothing before BEGIN and is
described by `tick_spec` afterwards. -/
theorem tickAdvancesEveryChannel : Obligations.TickAdvancesEveryChannel := by
  refine ⟨by decide, fun s hinv => ⟨(serveEvent_tickIn s).trans (exec_tick s).symm, ?_⟩⟩
  split
  case isTrue hstopped => rw [exec_tick, tick_of_not_run hstopped]
  case isFalse hrun => exact ⟨tick s.nowUs s, exec_tick s, tick_spec hinv (Bool.eq_true_of_not_eq_false hrun)⟩

end Sys2Proof.Machine
end

section
/-! PROOFS. The immediate setters of the Parameter Control Layer (42_parameter_control.md R76 to R83, R116): the words
they are written as, one equation per command that gives its checks in their order, and the rescale of R78. -/

namespace Sys2Proof.Machine

open Sys2Proof.Safety

/-! ## The words of the immediate setters (30_encoding.md R53) -/

theorem decodeCmd_setFreq (ch : Byte) (v : U16) : decodeCmd (packCmd 0x10 ch v 0 0) = .ok (.setFreq ch v) := by
  simp only [decodeCmd, opField_packCmd, chField_packCmd, aField_packCmd, bField_packCmd, cField_packCmd]; rfl

theorem decodeCmd_setDuty (ch : Byte) (v : U16) : decodeCmd (packCmd 0x11 ch v 0 0) = .ok (.setDuty ch v) := by
  simp only [decodeCmd, opField_packCmd, chField_packCmd, aField_packCmd, bField_packCmd, cField_packCmd]; rfl

theorem decodeCmd_setPhase (ch : Byte) (v : U16) : decodeCmd (packCmd 0x12 ch v 0 0) = .ok (.setPhase ch v) := by
  simp only [decodeCmd, opField_packCmd, chField_packCmd, aField_packCmd, bField_packCmd, cField_packCmd]; rfl

theorem decodeCmd_setGFreq (v : U16) : decodeCmd (packCmd 0x13 0 v 0 0) = .ok (.setGFreq v) := by
  simp only [decodeCmd, opField_packCmd, chField_packCmd, aField_packCmd, bField_packCmd, cField_packCmd]; rfl

/-! ## The checks of each command, in the order of the spec -/

theorem exec_setFreq (ch : Byte) (v : U16) (s : State) :
    exec (.setFreq ch v) s =
      if s.cfg.nch ≤ ch.toNat then .next s
      else if s.cfg.role = .client then .next s
      else if v.toNat < s.cfg.freqMin.toNat ∨ s.cfg.freqMax.toNat < v.toNat then .next s
      else .next (s.modifyChan ch.toNat fun c => clearRact .freq (setParam .freq v c)) := by
  simp only [exec, execSetFreq, badChannel_eq_true, freqNoOp_eq_true, badFreq_eq_true, raiseInvalidArgument, roleNoOp,
    setParam]

theorem exec_setGFreq (v : U16) (s : State) :
    exec (.setGFreq v) s =
      if s.cfg.role = .client then .next s
      else if v.toNat < s.cfg.freqMin.toNat ∨ s.cfg.freqMax.toNat < v.toNat then .next s
      else .next (s.mapChans fun _ c => clearRact .freq (setParam .freq v c)) := by
  simp only [exec, execSetGFreq, freqNoOp_eq_true, badFreq_eq_true, raiseInvalidArgument, roleNoOp, setParam]

theorem exec_setDuty (ch : Byte) (v : U16) (s : State) :
    exec (.setDuty ch v) s =
      if s.cfg.nch ≤ ch.toNat then .next s
      else .next (s.modifyChan ch.toNat fun c => clearRact .duty (setParam .duty v c)) := by
  simp only [exec, execSetDuty, badChannel_eq_true, raiseInvalidArgument, setParam]

theorem exec_setPhase (ch : Byte) (v : U16) (s : State) :
    exec (.setPhase ch v) s =
      if s.cfg.nch ≤ ch.toNat then .next s
      else if s.cfg.role = .master then .next s
      else .next (s.modifyChan ch.toNat fun c => clearRact .phase (setParam .phase v c)) := by
  simp only [exec, execSetPhase, badChannel_eq_true, phaseNoOp_eq_true, raiseInvalidArgument, roleNoOp, setParam]

/-! ## The commands that write one channel -/

/-- A setter and the end of its ramp, on the channel a valid index names (42_parameter_control.md R79, R81, R82). -/
theorem modifyChan_setAndEnd {s : State} (hs : Inv s) {ch : Byte} (hch : ¬ s.cfg.nch ≤ ch.toNat) (p : Parameter)
    (v : U16) :
    OnlyChannel ch.toNat s (s.modifyChan ch.toNat fun c => clearRact p (setParam p v c)) (SetAndEnd p v) := by
  have hlt : ch.toNat < s.chans.length := by rw [hs.nchans]; exact Nat.lt_of_not_le hch
  exact modifyChan_only hlt fun c hc => setAndEnd_spec (hs.chans c hc) p v

/-- Settles O28, check by check: index, role, range, and then the write. -/
theorem setFreqSetsOneFrequency : Obligations.SetFreqSetsOneFrequency := by
  refine fun s ch v hs => ⟨decodeCmd_setFreq ch v, ?_⟩
  rw [exec_setFreq]
  split_ifs with hch hclient hrange
  · rfl
  · rfl
  · rfl
  · exact ⟨_, rfl, modifyChan_setAndEnd hs hch .freq v⟩

/-- Settles O30: an index check, then the write; the clamp is the setter's (90_conflicts.md C1). -/
theorem setDutySetsOneDuty : Obligations.SetDutySetsOneDuty := by
  refine fun s ch v hs => ⟨decodeCmd_setDuty ch v, ?_⟩
  rw [exec_setDuty]
  split_ifs with hch
  · rfl
  · exact ⟨_, rfl, modifyChan_setAndEnd hs hch .duty v⟩

/-- Settles O31, check by check: index, role, and then the write. -/
theorem setPhaseSetsOnePhase : Obligations.SetPhaseSetsOnePhase := by
  refine fun s ch v hs => ⟨decodeCmd_setPhase ch v, ?_⟩
  rw [exec_setPhase]
  split_ifs with hch hmaster
  · rfl
  · rfl
  · exact ⟨_, rfl, modifyChan_setAndEnd hs hch .phase v⟩

/-! ## The command that writes every channel -/

theorem mapChans_setAndEnd {s : State} (hs : Inv s) (p : Parameter) (v : U16) :
    EachChannel s.chans (s.mapChans fun _ c => clearRact p (setParam p v c)).chans fun _ => SetAndEnd p v :=
  mapFrom_each fun _ c hk => setAndEnd_spec (hs.chans c (List.mem_of_getElem? hk)) p v

/-- Settles O29, check by check: role, range, and then the loop over the channels. -/
theorem setGFreqSetsEveryFrequency : Obligations.SetGFreqSetsEveryFrequency := by
  refine fun s v hs => ⟨decodeCmd_setGFreq v, ?_⟩
  rw [exec_setGFreq]
  split_ifs with hclient hrange
  · rfl
  · rfl
  · exact ⟨_, rfl, rfl, mapChans_setAndEnd hs .freq v⟩

/-! ## The rescale -/

/-- To keep the frequency is to keep the position: the period is the one the frequency gives (10_state.md R32), so the
rescale multiplies and divides by the same number. -/
theorem setFreq_freq_pos {p : Params} {c : Channel} (hc : ChannelInv p c) : (setFreq c.freq c).pos = c.pos := by
  have hperiod : periodOf c.freq = c.period := BitVec.eq_of_toNat_eq ((periodOf_toNat c.freq).trans hc.period.symm)
  have hpositive : 0 < c.period.toNat := lt_of_lt_of_le (by norm_num) hc.period_ge
  apply BitVec.eq_of_toNat_eq
  rw [setFreq_pos, hperiod, rescale_toNat hc.pos_lt, Nat.mul_div_cancel _ hpositive]

/-- Settles O32: the new position is the floor of `POS * new / old`, and a floor is at most the quotient and less than 1
below it. -/
theorem frequencyChangeKeepsTheFractionalPosition : Obligations.FrequencyChangeKeepsTheFractionalPosition := by
  intro p c v hlegal hc hv n
  have hpositive : 0 < c.period.toNat := lt_of_lt_of_le (by norm_num) hc.period_ge
  obtain ⟨-, -, hfloor, -⟩ : FreqSet v c n := setFreq_spec v hc.duty hc.phase hc.pos_lt
  refine ⟨(setFreq_keeps hlegal hc hv).pos_lt, ?_, ?_, ?_⟩
  · rw [hfloor]
    exact Nat.div_mul_le_self _ _
  · rw [hfloor]
    exact (Nat.div_lt_iff_lt_mul hpositive).mp (Nat.lt_succ_self _)
  · rintro rfl
    exact setFreq_freq_pos hc

end Sys2Proof.Machine
end

section
/-! PROOFS. The Synchronization Subsystem of a client (43_synchronization.md R92 to R101): the capture keeps the
invariants (10_state.md R32), one equation per branch of SYNC_EDGE and of SYNC_BYTE, and the two events. -/

namespace Sys2Proof.Machine

open Sys2Proof.Safety

/-! ## The capture keeps the invariants -/

/-- The only item of 10_state.md R32 about `POS` is that it lies in the cycle. -/
theorem channelInv_with_pos {p : Params} {c : Channel} {x : U32} (hc : ChannelInv p c)
    (hx : x.toNat < c.period.toNat) : ChannelInv p { c with pos := x } :=
  { hc with pos_lt := hx }

/-- A position moved by the drift nudge is wrapped into the cycle (43_synchronization.md R98). -/
theorem nudgeChan_keeps {p : Params} {c : Channel} (hc : ChannelInv p c) (err : Int) (k : Nat) :
    ChannelInv p (nudgeChan p err k c) := by
  have hpositive : 0 < c.period.toNat := lt_of_lt_of_le (by norm_num) hc.period_ge
  have hwrapped := modNat_lt ((c.pos.toNat : Int) - err) hpositive
  unfold nudgeChan
  split
  · exact hc
  · exact channelInv_with_pos hc (by rwa [u32_toNat_of_lt (lt_trans hwrapped c.period.isLt)])

/-- A loop over the channels keeps the invariants of the state when its body keeps those of a channel. -/
theorem mapChans_keeps {s : State} {f : Nat → Channel → Channel} (hs : Inv s)
    (hf : ∀ k c, ChannelInv s.cfg c → ChannelInv s.cfg (f k c)) : Inv (s.mapChans f) :=
  { hs with
    nchans := (mapFrom_length f 0 s.chans).trans hs.nchans
    chans := fun y hy => by
      obtain ⟨k, c, hc, rfl⟩ := mem_mapFrom hy
      exact hf k c (hs.chans c hc) }

/-- The filter writes an entry of `BUF` and takes the mean that 10_state.md R32 asks for (43_synchronization.md R97). -/
theorem insertSample_keeps {s : State} (hs : Inv s) (x : U32) : Inv (insertSample x s) := by
  have hlength : (s.buf.set s.head x).length = s.cfg.nbuf := List.length_set.trans hs.nbuf
  exact
    { hs with
      nbuf := hlength
      head := Nat.mod_lt _ (Nat.zero_lt_of_lt hs.head)
      avg := meanOf_toNat hlength }

/-- The invariants do not speak of `LASTEVT`, `REFTIME` and `SYNCED`. -/
theorem inv_with_event {s : State} (hs : Inv s) (now ref : U32) :
    Inv { s with lastEvt := now, refTime := ref, synced := true } :=
  { hs with }

theorem hardResync_keeps {s : State} (hs : Inv s) (now : U32) : Inv (hardResync now s) :=
  inv_with_event (mapChans_keeps hs fun _ _ hc => channelInv_with_pos (x := 0) hc (Nat.zero_lt_of_lt hc.pos_lt)) now _

theorem captureInterval_keeps {s : State} (hs : Inv s) (now : U32) (raw : Nat) : Inv (captureInterval now raw s) := by
  have htaken := inv_with_event (insertSample_keeps hs (u32 (raw / missedMultiple s.cfg s.avg raw))) now
    (latencyCorrected s.cfg now)
  unfold captureInterval
  dsimp only
  split
  · exact mapChans_keeps htaken fun k _ hc => nudgeChan_keeps hc _ k
  · exact htaken

/-- Both ways `capture` can go, hard resynchronization and ordinary event, keep the invariants (43_synchronization.md
R93). -/
theorem capture_keeps {s : State} (hs : Inv s) (now : U32) : Inv (capture now s) := by
  unfold capture
  dsimp only
  split_ifs
  · exact hardResync_keeps hs now
  · exact hardResync_keeps hs now
  · exact captureInterval_keeps hs now _

/-! ## SYNC_EDGE -/

theorem serveEvent_syncEdge_of_live {s : State} (h : s.run = true ∧ s.cfg.role = .client ∧ s.cfg.link = .pulse) :
    serveEvent .syncEdge s = .next (capture s.nowUs s) := congrArg Host.Outcome.next (if_pos h)

theorem serveEvent_syncEdge_of_not_live {s : State}
    (h : ¬ (s.run = true ∧ s.cfg.role = .client ∧ s.cfg.link = .pulse)) :
    serveEvent .syncEdge s = .next s := congrArg Host.Outcome.next (if_neg h)

/-- Settles O45: a live edge runs `capture`, which `capture_spec` describes; any other is ignored. -/
theorem syncEdgeCapturesOnAPulseClient : Obligations.SyncEdgeCapturesOnAPulseClient := by
  intro s hs
  split
  case isTrue hlive => exact ⟨_, serveEvent_syncEdge_of_live hlive, capture_spec hs s.nowUs⟩
  case isFalse hignored => exact serveEvent_syncEdge_of_not_live hignored

/-! ## SYNC_BYTE: the deframer, one equation per value of `RXST` -/

theorem serveEvent_syncByte_of_not_live {s : State} (b : Byte)
    (h : ¬ (s.run = true ∧ s.cfg.role = .client ∧ s.cfg.link = .msg)) :
    serveEvent (.syncByte b) s = .next s := congrArg Host.Outcome.next (if_neg h)

section
variable {s : State} (hlive : s.run = true ∧ s.cfg.role = .client ∧ s.cfg.link = .msg) (b : Byte)
include hlive

theorem serveEvent_syncByte_idle (hidle : s.rxst = .idle) :
    serveEvent (.syncByte b) s = .next (if b = s.cfg.marker then { s with rxst := .gotMarker } else s) := by
  simp only [serveEvent, serveSyncByte, if_pos hlive, hidle]

theorem serveEvent_syncByte_gotMarker (hmarker : s.rxst = .gotMarker) :
    serveEvent (.syncByte b) s = .next { s with rxhi := b, rxst := .gotHi } := by
  simp only [serveEvent, serveSyncByte, if_pos hlive, hmarker]

theorem serveEvent_syncByte_gotHi (hhigh : s.rxst = .gotHi) :
    serveEvent (.syncByte b) s = .next (adopt (s.rxhi ++ b) (capture s.nowUs { s with rxst := .idle })) := by
  simp only [serveEvent, serveSyncByte, if_pos hlive, hhigh]

end

/-- The two frequency bytes of a packet, high byte first (30_encoding.md R55). -/
theorem freqOfBytes_toNat (hi lo : Byte) : (hi ++ lo : U16).toNat = hi.toNat * 256 + lo.toNat := by
  rw [BitVec.toNat_append, ← Nat.shiftLeft_add_eq_or_of_lt lo.isLt, Nat.shiftLeft_eq]

/-- Back in IDLE the invariants hold: the only item about the deframer is that `RXST` is not 3. -/
theorem inv_with_idle {s : State} (hs : Inv s) : Inv { s with rxst := .idle } :=
  { hs with rxst := Nat.zero_le _ }

/-- Settles O46, state by state of the deframer. The third byte captures in the state that is back in IDLE, and adopts
in the captured state, which still meets the invariants. -/
theorem syncByteRunsTheDeframer : Obligations.SyncByteRunsTheDeframer := by
  intro s b hs
  split
  case isFalse hignored => exact serveEvent_syncByte_of_not_live b hignored
  case isTrue hlive =>
    split
    case h_1 hidle =>
      rw [serveEvent_syncByte_idle hlive b hidle]
      split_ifs <;> rfl
    case h_2 hmarker => exact serveEvent_syncByte_gotMarker hlive b hmarker
    case h_3 hhigh =>
      have hidle := inv_with_idle hs
      exact ⟨_, _, s.rxhi ++ b, freqOfBytes_toNat s.rxhi b, capture_spec hidle s.nowUs,
        adopt_spec (capture_keeps hidle s.nowUs) _, serveEvent_syncByte_gotHi hlive b hhigh⟩

end Sys2Proof.Machine
end

section
/-! PROOFS. The interpolation of a ramp (44_sequencing.md R115): its value on either side of the start, and its distance
from the start, which is one floor for both directions. -/

namespace Sys2Proof.Machine

open Sys2Proof.Safety

theorem interp_toNat_of_le {s t : U16} {q d : Nat} (hst : s.toNat ≤ t.toNat) (hq : q ≤ d) :
    (interp s t q d).toNat = s.toNat + (t.toNat - s.toNat) * q / d := by
  have hexact := interp_spec s t hq
  rw [Interpolated, if_pos hst] at hexact
  exact_mod_cast hexact

/-- Downwards nothing is cut off at 0: the quotient is at most `s - t`. -/
theorem interp_toNat_of_lt {s t : U16} {q d : Nat} (hts : t.toNat < s.toNat) (hq : q ≤ d) :
    (interp s t q d).toNat = s.toNat - (s.toNat - t.toNat) * q / d := by
  have hexact := interp_spec s t hq
  rw [Interpolated, if_neg (Nat.not_le_of_lt hts)] at hexact
  omega

theorem interp_zero (s t : U16) (d : Nat) : interp s t 0 d = s := by
  apply BitVec.eq_of_toNat_eq
  rcases Nat.lt_or_ge t.toNat s.toNat with hts | hst
  · rw [interp_toNat_of_lt hts d.zero_le, Nat.mul_zero, Nat.zero_div, Nat.sub_zero]
  · rw [interp_toNat_of_le hst d.zero_le, Nat.mul_zero, Nat.zero_div, Nat.add_zero]

/-- The floor is at most the whole distance, so the value does not pass the target. -/
theorem interp_between (s t : U16) {q d : Nat} (hq : q ≤ d) :
    min s.toNat t.toNat ≤ (interp s t q d).toNat ∧ (interp s t q d).toNat ≤ max s.toNat t.toNat := by
  rcases Nat.lt_or_ge t.toNat s.toNat with hts | hst
  · have hfloor := mul_div_le_of_le (x := s.toNat - t.toNat) hq
    rw [interp_toNat_of_lt hts hq, min_eq_right hts.le, max_eq_left hts.le]
    exact ⟨Nat.le_sub_of_add_le (by omega), Nat.sub_le _ _⟩
  · have hfloor := mul_div_le_of_le (x := t.toNat - s.toNat) hq
    rw [interp_toNat_of_le hst hq, min_eq_left hst, max_eq_right hst]
    exact ⟨Nat.le_add_right _ _, by omega⟩

theorem absDiff_of_le {a b : Nat} (h : a ≤ b) : absDiff a b = b - a := by
  rw [absDiff, max_eq_right h, min_eq_left h]

theorem absDiff_of_ge {a b : Nat} (h : b ≤ a) : absDiff a b = a - b := by
  rw [absDiff, max_eq_left h, min_eq_right h]

theorem interp_distance (s t : U16) {q d : Nat} (hq : q ≤ d) :
    |((interp s t q d).toNat : Int) - s.toNat| = ((absDiff s.toNat t.toNat * q / d : Nat) : Int) := by
  rw [← absDiff_eq_abs, Nat.cast_inj]
  rcases Nat.lt_or_ge t.toNat s.toNat with hts | hst
  · have hfloor := (mul_div_le_of_le (x := s.toNat - t.toNat) hq).trans (Nat.sub_le _ _)
    rw [interp_toNat_of_lt hts hq, absDiff_of_le (Nat.sub_le _ _), absDiff_of_ge hts.le, Nat.sub_sub_self hfloor]
  · rw [interp_toNat_of_le hst hq, absDiff_of_ge (Nat.le_add_right _ _), absDiff_of_le hst, Nat.add_sub_cancel_left]

/-- Settles O39: the distance from the start is `|t - s| * q div d`, which grows with `q`. -/
theorem interpolationIsMonotoneBetweenItsEnds : Obligations.InterpolationIsMonotoneBetweenItsEnds := by
  intro s t q q' d hqq' hq'd
  have hq : q ≤ d := hqq'.trans hq'd.le
  obtain ⟨hmin, hmax⟩ := interp_between s t hq
  refine ⟨interp_spec s t hq, interp_zero s t d, hmin, hmax, ?_⟩
  rw [interp_distance s t hq, interp_distance s t hq'd.le]
  exact Int.ofNat_le.mpr (Nat.div_le_div_right (Nat.mul_le_mul_left _ hqq'))

end Sys2Proof.Machine
end

section
/-! PROOFS. The commands of the Sequencing Layer that write one channel (44_sequencing.md R105 to R112): their words,
their checks, which a buffered setter and the ramp command of the same parameter share, and what they write. -/

namespace Sys2Proof.Machine

open Sys2Proof.Safety

/-! ## The words of the commands (30_encoding.md R53) -/

/-- The row of the opcode map is chosen by `OP`, and an encoded word holds 0 in the fields its row says are 0. -/
theorem decodeCmd_of_encode {i : Instr} {w : CmdWord} (h : encode i = .cmd w) : decodeCmd w = .ok i := by
  cases i
  case link3 => cases h
  all_goals
    cases h
    simp only [decodeCmd, opField_packCmd, chField_packCmd, aField_packCmd, bField_packCmd, cField_packCmd]
    rfl

/-! ## The checks, in the order of the spec -/

/-- The checks of a frequency command: index, role, range (44_sequencing.md R105, R110). -/
theorem freqChecks_eq (ch : Byte) (v : U16) (s : State) (effect : Host.Outcome State Fault Refusal) :
    (if badChannel s.cfg ch then raiseInvalidArgument s
     else if freqNoOp s.cfg then roleNoOp s
     else if badFreq s.cfg v then raiseInvalidArgument s
     else effect) =
      if s.cfg.nch ≤ ch.toNat then .next s
      else if s.cfg.role = .client then .next s
      else if v.toNat < s.cfg.freqMin.toNat ∨ s.cfg.freqMax.toNat < v.toNat then .next s
      else effect := by
  simp only [badChannel_eq_true, freqNoOp_eq_true, badFreq_eq_true, raiseInvalidArgument, roleNoOp]

/-- The check of a duty command: index (44_sequencing.md R106, R111). -/
theorem dutyChecks_eq (ch : Byte) (s : State) (effect : Host.Outcome State Fault Refusal) :
    (if badChannel s.cfg ch then raiseInvalidArgument s else effect) =
      if s.cfg.nch ≤ ch.toNat then .next s else effect := by
  simp only [badChannel_eq_true, raiseInvalidArgument]

/-- The checks of a phase command: index, role (44_sequencing.md R107, R112). -/
theorem phaseChecks_eq (ch : Byte) (s : State) (effect : Host.Outcome State Fault Refusal) :
    (if badChannel s.cfg ch then raiseInvalidArgument s else if phaseNoOp s.cfg then roleNoOp s else effect) =
      if s.cfg.nch ≤ ch.toNat then .next s else if s.cfg.role = .master then .next s else effect := by
  simp only [badChannel_eq_true, phaseNoOp_eq_true, raiseInvalidArgument, roleNoOp]

section
variable (ch : Byte) (v dur dly : U16) (s : State)

theorem exec_setFreqNext :
    exec (.setFreqNext ch v) s =
      if s.cfg.nch ≤ ch.toNat then .next s
      else if s.cfg.role = .client then .next s
      else if v.toNat < s.cfg.freqMin.toNat ∨ s.cfg.freqMax.toNat < v.toNat then .next s
      else .next (s.modifyChan ch.toNat fun c => clearRact .freq { c with pendFreq := v, dirtyF := true }) :=
  freqChecks_eq ch v s _

theorem exec_setDutyNext :
    exec (.setDutyNext ch v) s =
      if s.cfg.nch ≤ ch.toNat then .next s
      else .next (s.modifyChan ch.toNat fun c => clearRact .duty { c with pendDuty := clampDuty v, dirtyD := true }) :=
  dutyChecks_eq ch s _

theorem exec_setPhaseNext :
    exec (.setPhaseNext ch v) s =
      if s.cfg.nch ≤ ch.toNat then .next s
      else if s.cfg.role = .master then .next s
      else .next (s.modifyChan ch.toNat fun c =>
        clearRact .phase { c with pendPhase := clampPhase v, dirtyP := true }) :=
  phaseChecks_eq ch s _

theorem exec_rampFreq :
    exec (.rampFreq ch v dur dly) s =
      if s.cfg.nch ≤ ch.toNat then .next s
      else if s.cfg.role = .client then .next s
      else if v.toNat < s.cfg.freqMin.toNat ∨ s.cfg.freqMax.toNat < v.toNat then .next s
      else .next (s.modifyChan ch.toNat (startRamp .freq v dur dly s.nowMs)) :=
  freqChecks_eq ch v s _

theorem exec_rampDuty :
    exec (.rampDuty ch v dur dly) s =
      if s.cfg.nch ≤ ch.toNat then .next s
      else .next (s.modifyChan ch.toNat (startRamp .duty (clampDuty v) dur dly s.nowMs)) :=
  dutyChecks_eq ch s _

theorem exec_rampPhase :
    exec (.rampPhase ch v dur dly) s =
      if s.cfg.nch ≤ ch.toNat then .next s
      else if s.cfg.role = .master then .next s
      else .next (s.modifyChan ch.toNat (startRamp .phase (clampPhase v) dur dly s.nowMs)) :=
  phaseChecks_eq ch s _

end

/-! ## What they write -/

/-- In a state that meets the invariants, an index below `NCH` names a channel (10_state.md R32). -/
theorem lt_length_chans {s : State} (hs : Inv s) {ch : Byte} (hch : ¬ s.cfg.nch ≤ ch.toNat) :
    ch.toNat < s.chans.length := by
  rw [hs.nchans]
  exact Nat.lt_of_not_le hch

/-- `startRamp` on the channel a valid index names (44_sequencing.md R109). -/
theorem modifyChan_startRamp {s : State} (hs : Inv s) {ch : Byte} (hch : ¬ s.cfg.nch ≤ ch.toNat) (p : Parameter)
    (tgt dur dly : U16) (now : U32) :
    OnlyChannel ch.toNat s (s.modifyChan ch.toNat (startRamp p tgt dur dly now)) (RampStarted p tgt dur dly now) :=
  modifyChan_only (lt_length_chans hs hch) fun c hc => startRamp_spec (hs.chans c hc) p tgt dur dly now

/-! ## The buffered setters -/

/-- Settles O33, check by check: index, role, range, and then the write. -/
theorem setFreqNextStoresOnePendingFrequency : Obligations.SetFreqNextStoresOnePendingFrequency := by
  refine fun s ch v hs => ⟨decodeCmd_of_encode rfl, ?_⟩
  rw [exec_setFreqNext]
  split_ifs with hch hclient hrange
  · rfl
  · rfl
  · rfl
  · exact ⟨_, rfl, modifyChan_only (lt_length_chans hs hch) fun _ _ => rfl⟩

/-- Settles O34: an index check, then the write, clamped when it is stored (90_conflicts.md C1). -/
theorem setDutyNextStoresOnePendingDuty : Obligations.SetDutyNextStoresOnePendingDuty := by
  refine fun s ch v hs => ⟨decodeCmd_of_encode rfl, ?_⟩
  rw [exec_setDutyNext]
  split_ifs with hch
  · rfl
  · exact ⟨_, rfl, modifyChan_only (lt_length_chans hs hch) fun _ _ => ⟨rfl, clampDuty_toNat v⟩⟩

/-- Settles O35, check by check: index, role, and then the clamped write. -/
theorem setPhaseNextStoresOnePendingPhase : Obligations.SetPhaseNextStoresOnePendingPhase := by
  refine fun s ch v hs => ⟨decodeCmd_of_encode rfl, ?_⟩
  rw [exec_setPhaseNext]
  split_ifs with hch hmaster
  · rfl
  · rfl
  · exact ⟨_, rfl, modifyChan_only (lt_length_chans hs hch) fun _ _ => ⟨rfl, clampPhase_toNat v⟩⟩

/-! ## The ramp commands -/

/-- Settles O36, check by check: index, role, range, and then `startRamp`. -/
theorem rampFreqRecordsOrSetsAtOnce : Obligations.RampFreqRecordsOrSetsAtOnce := by
  refine fun s ch v dur dly hs => ⟨decodeCmd_of_encode rfl, ?_⟩
  rw [exec_rampFreq]
  split_ifs with hch hclient hrange
  · rfl
  · rfl
  · rfl
  · exact ⟨_, rfl, modifyChan_startRamp hs hch .freq v dur dly s.nowMs⟩

/-- Settles O37: an index check, then `startRamp` to the clamped target. -/
theorem rampDutyRecordsOrSetsAtOnce : Obligations.RampDutyRecordsOrSetsAtOnce := by
  refine fun s ch v dur dly hs => ⟨decodeCmd_of_encode rfl, ?_⟩
  rw [exec_rampDuty]
  split_ifs with hch
  · rfl
  · exact ⟨_, clampDuty v, rfl, clampDuty_toNat v, modifyChan_startRamp hs hch .duty _ dur dly s.nowMs⟩

/-- Settles O38, check by check: index, role, and then `startRamp` to the clamped target. -/
theorem rampPhaseRecordsOrSetsAtOnce : Obligations.RampPhaseRecordsOrSetsAtOnce := by
  refine fun s ch v dur dly hs => ⟨decodeCmd_of_encode rfl, ?_⟩
  rw [exec_rampPhase]
  split_ifs with hch hmaster
  · rfl
  · rfl
  · exact ⟨_, clampPhase v, rfl, clampPhase_toNat v, modifyChan_startRamp hs hch .phase _ dur dly s.nowMs⟩

end Sys2Proof.Machine
end

section
/-! PROOFS. The scheduler pass (44_sequencing.md R108, R113, R114): its parts keep the invariants (10_state.md R32), so
that each part is described in the state the part before it left. -/

namespace Sys2Proof.Machine

open Sys2Proof.Safety

/-! ## The parts of the pass keep the invariants -/

/-- A tick takes the new position modulo the period, in both designs (41_phase_accumulator.md R68, R69). -/
theorem tickPos_lt (p : Params) (now dt refTime : U32) (k : Nat) {c : Channel} (hperiod : 0 < c.period.toNat) :
    (tickPos p now dt refTime k c).toNat < c.period.toNat := by
  have hlt (n : Nat) : (u32 (n % c.period.toNat)).toNat < c.period.toNat := by
    have hmod := Nat.mod_lt n hperiod
    rwa [u32_toNat_of_lt (lt_trans hmod c.period.isLt)]
  unfold tickPos
  split
  · exact hlt _
  · exact hlt _

/-- The output latch is in no item of 10_state.md R32. -/
theorem tickChan_keeps {p : Params} {c : Channel} (hc : ChannelInv p c) (now dt refTime : U32) (k : Nat) :
    ChannelInv p (tickChan p now dt refTime k c) :=
  { hc with pos_lt := tickPos_lt p now dt refTime k (Nat.zero_lt_of_lt hc.pos_lt) }

theorem tickChannels_keeps {s : State} (hs : Inv s) (now : U32) : Inv (tickChannels now s) :=
  { mapChans_keeps hs fun k _ hc => tickChan_keeps hc now (sub32 now s.lastTick) s.refTime k with }

/-- The invariants do not speak of the outputs and of `LASTEMIT`. -/
theorem emitCheck_keeps {s : State} (hs : Inv s) (now : U32) : Inv (emitCheck now s) := by
  unfold emitCheck
  dsimp only
  split
  · exact { hs with }
  · exact hs

theorem tick_keeps {s : State} (hs : Inv s) (now : U32) : Inv (tick now s) := by
  have hticked := tickChannels_keeps hs now
  unfold tick
  dsimp only
  split_ifs with hrun hmaster
  · exact emitCheck_keeps hticked now
  · exact hticked
  · exact hs

theorem applyPending_keeps {s : State} (hs : Inv s) : Inv (applyPending s) :=
  mapChans_keeps hs fun _ _ hc => applyPendingChan_keeps hs.legal hc

/-! ## The pass, part by part -/

theorem applyPending_each {s : State} (hs : Inv s) :
    EachChannel s.chans (applyPending s).chans fun _ => PendingApplied :=
  mapFrom_each fun _ c hk => applyPendingChan_spec hs.legal (hs.chans c (List.mem_of_getElem? hk))

theorem rampStep_each {s : State} (hs : Inv s) (now : U32) :
    EachChannel s.chans (rampStep now s).chans fun _ => AllRampsStepped now :=
  mapFrom_each fun _ c hk => rampStepChan_spec hs.legal (hs.chans c (List.mem_of_getElem? hk)) now

/-- The middle part of a pass: the tick of the polling variant, if it is set (90_conflicts.md C4). -/
def tickIfScheduled (s : State) : State := if s.cfg.schedTicks = true then tick s.nowUs s else s

theorem tickIfScheduled_keeps {s : State} (hs : Inv s) : Inv (tickIfScheduled s) := by
  unfold tickIfScheduled
  split
  · exact tick_keeps hs s.nowUs
  · exact hs

theorem tickIfScheduled_spec {s : State} (hs : Inv s) (hrun : s.run = true) :
    if s.cfg.schedTicks = true then TickOf s (tickIfScheduled s) else tickIfScheduled s = s := by
  unfold tickIfScheduled
  split
  · exact tick_spec hs hrun
  · rfl

theorem serveEvent_schedIn (s : State) : serveEvent .schedIn s = exec .sched s := rfl

theorem exec_sched_of_not_run {s : State} (h : s.run = false) : exec .sched s = .next s :=
  congrArg Host.Outcome.next (if_neg (by rw [h]; exact Bool.false_ne_true))

theorem exec_sched_of_run {s : State} (h : s.run = true) :
    exec .sched s = .next (rampStep s.nowMs (tickIfScheduled (applyPending s))) :=
  congrArg Host.Outcome.next (if_pos h)

/-- Settles O27: the tick and the ramps act on states that still meet the invariants, so each part of the pass is what
its own lemma says. -/
theorem schedulerPassAppliesTicksAndRamps : Obligations.SchedulerPassAppliesTicksAndRamps := by
  refine ⟨by decide, fun s hs => ⟨serveEvent_schedIn s, ?_⟩⟩
  split
  case isTrue hstopped => exact exec_sched_of_not_run hstopped
  case isFalse hrun =>
    have hrun := Bool.eq_true_of_not_eq_false hrun
    have happlied := applyPending_keeps hs
    exact ⟨applyPending s, tickIfScheduled (applyPending s), _, ⟨rfl, applyPending_each hs⟩,
      tickIfScheduled_spec happlied hrun, ⟨rfl, rampStep_each (tickIfScheduled_keeps happlied) s.nowMs⟩,
      exec_sched_of_run hrun⟩

end Sys2Proof.Machine
end

section
/-! PROOFS. The decoder and the encoder (30_encoding.md R51 to R57): a command word decodes to exactly the instruction
it is the word of, and it matches a row of the opcode map exactly when it is the word of that row's instruction. -/

namespace Sys2Proof.Machine

open Sys2Proof.Safety Sys2Proof.Laws

/-! ## Command words -/

/-- The row is chosen by `OP`, and a row that decodes has 0 in the fields its encoding leaves out, so the fields of the
word are those of the encoding. -/
theorem encode_of_decodeCmd {w : CmdWord} {i : Instr} (h : decodeCmd w = .ok i) : encode i = .cmd w := by
  rw [← packCmd_fields w]
  unfold decodeCmd at h
  split at h
  case h_16 => cases h
  case h_12 hop | h_13 hop | h_14 hop =>
    cases h
    rw [hop]; rfl
  all_goals
    rename_i hop
    simp only [rowOf_eq_ok, Bool.and_eq_true, beq_iff_eq] at h
    obtain ⟨hzero, rfl⟩ := h
    simp only [hop, hzero, encode]
    rfl

theorem decodeCmd_eq_ok_iff {w : CmdWord} {i : Instr} : decodeCmd w = .ok i ↔ encode i = .cmd w :=
  ⟨encode_of_decodeCmd, decodeCmd_of_encode⟩

theorem decode_encode_of_cmd {w : CmdWord} {i : Instr} (h : encode i = .cmd w) : decode (encode i) = .ok i := by
  rw [h]
  exact decodeCmd_of_encode h

/-! ## Link packets -/

theorem decodeLink_packet (m h l : Byte) : decodeLink (m ++ h ++ l) = .link3 m h l := by
  have := m.isLt; have := h.isLt; have := l.isLt
  unfold decodeLink
  congr 1 <;> apply BitVec.eq_of_toNat_eq <;> rw [extract_toNat, packet_toNat] <;> omega

theorem encode_decodeLink (w : PacketWord) : encode (decodeLink w) = .link w := by
  have := w.isLt
  simp only [decodeLink, encode]
  congr 1
  apply BitVec.eq_of_toNat_eq
  rw [packet_toNat]; simp only [extract_toNat]; omega

/-- Settles O1, for the packet by its bytes and for a command word by its fields. -/
theorem decodeOfEncodeIsTheInstruction : Obligations.DecodeOfEncodeIsTheInstruction := by
  intro i
  cases i
  case link3 m h l => exact congrArg Except.ok (decodeLink_packet m h l)
  all_goals exact decode_encode_of_cmd rfl

/-- Settles O2, for each form of the wire. -/
theorem encodeOfDecodeIsTheWord : Obligations.EncodeOfDecodeIsTheWord := by
  intro w i h
  cases w
  case cmd w => exact encode_of_decodeCmd h
  case link w =>
    cases h
    exact encode_decodeLink w

/-- Settles O4: the seven words, decoded. -/
theorem workedEncodingsDecode : Obligations.WorkedEncodingsDecode := by
  unfold Obligations.WorkedEncodingsDecode
  decide

/-! ## The opcode map in match and mask form -/

/-- A word against a row whose mask covers `OP`: field by field. -/
theorem packCmd_and_mask_eq {op ch : Byte} {a b c : U16} {mch : Byte} {ma mb mc : U16} {k : Byte} :
    packCmd op ch a b c &&& packCmd 0xFF mch ma mb mc = packCmd k 0 0 0 0 ↔
      op = k ∧ ch &&& mch = 0 ∧ a &&& ma = 0 ∧ b &&& mb = 0 ∧ c &&& mc = 0 := by
  rw [packCmd_and, packCmd_inj, show op &&& 0xFF = op from BitVec.and_allOnes]

/-- A field that the mask covers is 0 in a word that matches. -/
theorem byte_eq_zero {x : Byte} (h : x &&& 0xFF = 0) : x = 0 := BitVec.and_allOnes.symm.trans h

theorem u16_eq_zero {x : U16} (h : x &&& 0xFFFF = 0) : x = 0 := BitVec.and_allOnes.symm.trans h

section
variable {op ch : Byte} {a b c : U16} (k : Byte)

/-- The rows with no operand: NOP, BEGIN, TICK, SCHED. -/
theorem eq_of_mask_all (h : packCmd op ch a b c &&& packCmd 0xFF 0xFF 0xFFFF 0xFFFF 0xFFFF = packCmd k 0 0 0 0) :
    op = k ∧ ch = 0 ∧ a = 0 ∧ b = 0 ∧ c = 0 := by
  obtain ⟨hop, hch, ha, hb, hc⟩ := packCmd_and_mask_eq.mp h
  exact ⟨hop, byte_eq_zero hch, u16_eq_zero ha, u16_eq_zero hb, u16_eq_zero hc⟩

/-- The rows with the operands CH and A: the setters of one channel, and GET. -/
theorem eq_of_mask_bc (h : packCmd op ch a b c &&& packCmd 0xFF 0 0 0xFFFF 0xFFFF = packCmd k 0 0 0 0) :
    op = k ∧ b = 0 ∧ c = 0 := by
  obtain ⟨hop, -, -, hb, hc⟩ := packCmd_and_mask_eq.mp h
  exact ⟨hop, u16_eq_zero hb, u16_eq_zero hc⟩

/-- The row of SET_GFREQ. -/
theorem eq_of_mask_chbc (h : packCmd op ch a b c &&& packCmd 0xFF 0xFF 0 0xFFFF 0xFFFF = packCmd k 0 0 0 0) :
    op = k ∧ ch = 0 ∧ b = 0 ∧ c = 0 := by
  obtain ⟨hop, hch, -, hb, hc⟩ := packCmd_and_mask_eq.mp h
  exact ⟨hop, byte_eq_zero hch, u16_eq_zero hb, u16_eq_zero hc⟩

/-- The rows with all four operands: the ramps. -/
theorem eq_of_mask_op (h : packCmd op ch a b c &&& packCmd 0xFF 0 0 0 0 = packCmd k 0 0 0 0) : op = k :=
  (packCmd_and_mask_eq.mp h).1

end

/-- A word that matches a row is the word of the row's instruction. -/
theorem encode_of_rowMatches {w : CmdWord} {r : CmdWord × CmdWord × Instr} (hr : r ∈ opcodeRows w)
    (h : RowMatches w r) : encode r.2.2 = .cmd w := by
  obtain ⟨op, ch, a, b, c, rfl⟩ : ∃ op ch a b c, w = packCmd op ch a b c := ⟨_, _, _, _, _, (packCmd_fields w).symm⟩
  simp only [opcodeRows, packCmd_operands, List.mem_cons, List.not_mem_nil, or_false] at hr
  rcases hr with rfl | rfl | rfl | rfl | rfl | rfl | rfl | rfl | rfl | rfl | rfl | rfl | rfl | rfl | rfl
  · obtain ⟨rfl, rfl, rfl, rfl, rfl⟩ := eq_of_mask_all 0x00 h; rfl
  · obtain ⟨rfl, rfl, rfl, rfl, rfl⟩ := eq_of_mask_all 0x01 h; rfl
  · obtain ⟨rfl, rfl, rfl, rfl, rfl⟩ := eq_of_mask_all 0x02 h; rfl
  · obtain ⟨rfl, rfl, rfl, rfl, rfl⟩ := eq_of_mask_all 0x03 h; rfl
  · obtain ⟨rfl, rfl, rfl⟩ := eq_of_mask_bc 0x10 h; rfl
  · obtain ⟨rfl, rfl, rfl⟩ := eq_of_mask_bc 0x11 h; rfl
  · obtain ⟨rfl, rfl, rfl⟩ := eq_of_mask_bc 0x12 h; rfl
  · obtain ⟨rfl, rfl, rfl, rfl⟩ := eq_of_mask_chbc 0x13 h; rfl
  · obtain ⟨rfl, rfl, rfl⟩ := eq_of_mask_bc 0x20 h; rfl
  · obtain ⟨rfl, rfl, rfl⟩ := eq_of_mask_bc 0x21 h; rfl
  · obtain ⟨rfl, rfl, rfl⟩ := eq_of_mask_bc 0x22 h; rfl
  · obtain rfl := eq_of_mask_op 0x30 h; rfl
  · obtain rfl := eq_of_mask_op 0x31 h; rfl
  · obtain rfl := eq_of_mask_op 0x32 h; rfl
  · obtain ⟨rfl, rfl, rfl⟩ := eq_of_mask_bc 0x40 h; rfl

/-- The word of a command matches the command's own row, constructor by constructor. -/
theorem exists_row_of_encode {w : CmdWord} {i : Instr} (h : encode i = .cmd w) :
    ∃ r ∈ opcodeRows w, RowMatches w r ∧ r.2.2 = i := by
  have hrow : EncodesUnderItsMask.Statement i := by
    cases i with
    | nop => exact EncodesUnderItsMask.nop
    | begin => exact EncodesUnderItsMask.begin
    | tick => exact EncodesUnderItsMask.tick
    | sched => exact EncodesUnderItsMask.sched
    | setFreq ch v => exact EncodesUnderItsMask.setFreq ch v
    | setDuty ch v => exact EncodesUnderItsMask.setDuty ch v
    | setPhase ch v => exact EncodesUnderItsMask.setPhase ch v
    | setGFreq v => exact EncodesUnderItsMask.setGFreq v
    | setFreqNext ch v => exact EncodesUnderItsMask.setFreqNext ch v
    | setDutyNext ch v => exact EncodesUnderItsMask.setDutyNext ch v
    | setPhaseNext ch v => exact EncodesUnderItsMask.setPhaseNext ch v
    | rampFreq ch v dur dly => exact EncodesUnderItsMask.rampFreq ch v dur dly
    | rampDuty ch v dur dly => exact EncodesUnderItsMask.rampDuty ch v dur dly
    | rampPhase ch v dur dly => exact EncodesUnderItsMask.rampPhase ch v dur dly
    | get ch sel => exact EncodesUnderItsMask.get ch sel
    | link3 m hi lo => exact EncodesUnderItsMask.link3 m hi lo
  rwa [EncodesUnderItsMask.Statement, h] at hrow

/-- The fifteen rows are those of fifteen commands, and a word is the word of at most one. -/
theorem rowMatches_unique {w : CmdWord} {r r' : CmdWord × CmdWord × Instr} (hr : r ∈ opcodeRows w)
    (hr' : r' ∈ opcodeRows w) (h : RowMatches w r) (h' : RowMatches w r') : r = r' := by
  have hcommands : ((opcodeRows w).map fun r => r.2.2).Nodup := by simp [opcodeRows]
  have hdecoded := decodeCmd_of_encode (encode_of_rowMatches hr h)
  rw [decodeCmd_of_encode (encode_of_rowMatches hr' h')] at hdecoded
  exact List.inj_on_of_nodup_map hcommands hr hr' (Except.ok.inj hdecoded).symm

/-- Settles O3: to decode to `i` and to match a row of `i` are both to be the word of `i`. -/
theorem commandWordsDecodeByMaskAndMatch : Obligations.CommandWordsDecodeByMaskAndMatch := by
  refine fun w => ⟨fun i => ⟨fun h => exists_row_of_encode (encode_of_decodeCmd h), ?_⟩,
    fun r hr r' hr' h h' => rowMatches_unique hr hr' h h'⟩
  rintro ⟨r, hr, h, rfl⟩
  exact decodeCmd_of_encode (encode_of_rowMatches hr h)

end Sys2Proof.Machine
end

section
/-! PROOFS. One step (20_memory.md R41, R43, R45; 60_exceptions.md R125): what the environment's next move picks, and
what the step then does, one equation per move. -/

namespace Sys2Proof.Machine

open Sys2Proof.Safety

/-! ## What the next move picks -/

theorem takeWaiting_cons {s : State} {e : Event} {us ms : U32} {q : List Stamped}
    (h : s.waiting = ⟨e, us, ms⟩ :: q) :
    takeWaiting s = .serve e { s with waiting := q, nowUs := us, nowMs := ms } := by
  simp only [takeWaiting, h]

theorem nextPick_of_idle {s : State} (henv : s.env = []) : nextPick s = takeWaiting s := by
  simp only [nextPick, henv]

theorem nextPick_of_serve {s : State} {m : List EnvMove} (henv : s.env = .serve :: m) :
    nextPick s = takeWaiting { s with env := m } := by
  simp only [nextPick, henv]

theorem nextPick_of_arrive {s : State} {a : Arrivals} {m : List EnvMove} (henv : s.env = .arrive a :: m) :
    nextPick s = .settled (arrive a { s with env := m }) := by
  simp only [nextPick, henv]

/-! ## What the step does -/

section
variable {s t : State} (hlegal : s.cfg.legal = true)
include hlegal

theorem step_of_settled (h : nextPick s = .settled t) : step s = .next t := by
  simp only [step, hlegal, h, if_true]

theorem step_of_served {e : Event} (h : nextPick s = .serve e t) : step s = serveEvent e t := by
  simp only [step, hlegal, h, if_true]

theorem step_of_arrive {a : Arrivals} {m : List EnvMove} (henv : s.env = .arrive a :: m) :
    step s = .next (arrive a { s with env := m }) :=
  step_of_settled hlegal (nextPick_of_arrive henv)

variable {e : Event} {us ms : U32} {q : List Stamped} (hwaiting : s.waiting = ⟨e, us, ms⟩ :: q)
include hwaiting

theorem step_of_idle (henv : s.env = []) :
    step s = serveEvent e { s with waiting := q, nowUs := us, nowMs := ms } :=
  step_of_served hlegal ((nextPick_of_idle henv).trans (takeWaiting_cons hwaiting))

theorem step_of_serve {m : List EnvMove} (henv : s.env = .serve :: m) :
    step s = serveEvent e { s with env := m, waiting := q, nowUs := us, nowMs := ms } :=
  step_of_served hlegal ((nextPick_of_serve henv).trans (takeWaiting_cons (s := { s with env := m }) hwaiting))

end

/-- Settles O15. -/
theorem illegalInstanceIsRefused : Obligations.IllegalInstanceIsRefused :=
  fun _ hillegal => if_neg (by rw [hillegal]; exact Bool.false_ne_true)

/-! ## Serving -/

theorem serveEvent_cmd_of_decodeCmd_ok {w : CmdWord} {i : Instr} (h : decodeCmd w = .ok i) (s : State) :
    serveEvent (.cmd w) s = exec i s := by
  simp only [serveEvent, h]

theorem serveEvent_packet (w : PacketWord) (s : State) : serveEvent (.packet w) s = exec (decodeLink w) s := rfl

/-- Settles O5: both ways of service run `serveEvent`, which runs a decoded command. -/
theorem stepRunsTheDecodedCommand : Obligations.StepRunsTheDecodedCommand := by
  intro s u e us ms q hlegal hwaiting hserved
  have hstep : step s = serveEvent e u := by
    rcases hserved with ⟨henv, rfl⟩ | ⟨m, henv, rfl⟩
    · exact step_of_idle hlegal hwaiting henv
    · exact step_of_serve hlegal hwaiting henv
  refine ⟨hstep, ?_, ?_⟩
  · rintro w i rfl hdecoded
    rw [hstep, serveEvent_cmd_of_decodeCmd_ok hdecoded]
  · rintro w i rfl hdecoded
    rw [hstep, serveEvent_packet, Except.ok.inj hdecoded]

/-- A word that matches no row is a reserved encoding (30_encoding.md R54). -/
theorem serveEvent_cmd_of_no_row {w : CmdWord} (h : ∀ r ∈ opcodeRows w, ¬ RowMatches w r) (s : State) :
    serveEvent (.cmd w) s = .next s := by
  cases hdecoded : decodeCmd w with
  | error e => exact serveEvent_cmd_of_decodeCmd_error hdecoded s
  | ok i =>
    obtain ⟨r, hr, hmatch, -⟩ := exists_row_of_encode (encode_of_decodeCmd hdecoded)
    exact absurd hmatch (h r hr)

/-- Settles O6, for both ways of service. -/
theorem reservedWordIsIgnored : Obligations.ReservedWordIsIgnored := by
  refine fun s w us ms q hlegal hwaiting hreserved => ⟨fun henv => ?_, fun m henv => ?_⟩
  · rw [step_of_idle hlegal hwaiting henv, serveEvent_cmd_of_no_row hreserved]
  · rw [step_of_serve hlegal hwaiting henv, serveEvent_cmd_of_no_row hreserved]

/-! ## Placing an instruction -/

/-- The step takes away what the placement put in, so the event is served in the state it was placed in. -/
theorem step_placeNext {s : State} (hlegal : s.cfg.legal = true) (e : Event) :
    step (placeNext e s) = serveEvent e s :=
  step_of_serve (s := placeNext e s) hlegal rfl rfl

/-- Settles O7: a word of 64 bits is a command word, one of 24 bits a packet. -/
theorem placedInstructionRunsNext : Obligations.PlacedInstructionRunsNext := by
  intro s nbits w i hlegal hdecoded
  unfold decodeTableWord at hdecoded
  split_ifs at hdecoded with hcmd hlink
  · rw [State.withFetchWord, placeWord, if_neg (by omega), step_placeNext hlegal]
    cases hword : decodeCmd (BitVec.ofNat 64 w) with
    | error e => simp [decode, hword, Except.toOption] at hdecoded
    | ok j =>
      simp only [decode, hword, Except.toOption, Option.some.injEq] at hdecoded
      rw [serveEvent_cmd_of_decodeCmd_ok hword, hdecoded]
  · rw [State.withFetchWord, placeWord, if_pos hlink, step_placeNext hlegal, serveEvent_packet]
    exact congrArg (exec · s) (Option.some.inj hdecoded)

/-! ## Arrivals, and nothing to do -/

/-- Settles O8. -/
theorem noEventNoChange : Obligations.NoEventNoChange := by
  intro s hlegal henv hwaiting
  refine step_of_settled hlegal ((nextPick_of_idle henv).trans ?_)
  simp only [takeWaiting, hwaiting]

/-- The model's list of an instant's events is the order of 60_exceptions.md R125, port by port. -/
theorem events_eq_inServiceOrder (a : Arrivals) : a.events = inServiceOrder a := by
  refine congrArg₂ (· ++ ·) (congrArg₂ (· ++ ·) (congrArg₂ (· ++ ·) (congrArg₂ (· ++ ·) ?edge ?byte) ?tick) ?sched) ?cmd
  case edge => cases a.edge <;> rfl
  case byte => cases a.byte <;> rfl
  case tick => cases a.tick <;> rfl
  case sched => cases a.sched <;> rfl
  case cmd => cases a.cmd <;> rfl

/-- Settles O9. -/
theorem arrivalsQueueInServiceOrder : Obligations.ArrivalsQueueInServiceOrder := by
  intro s a m hlegal henv hreset
  rw [step_of_arrive hlegal henv, arrive, if_neg (by rw [hreset]; exact Bool.false_ne_true), events_eq_inServiceOrder]

end Sys2Proof.Machine
end

section
/-! PROOFS. RESET (70_reset_and_hazards.md R136, R137; 10_state.md R36): the reset state of legal parameters holds the
reset table and meets the invariants, and an arriving RESET leaves the block in it. -/

namespace Sys2Proof.Machine

open Sys2Proof.Safety

/-! ## What a legal parameter record gives, for the initial values -/

/-- The named checks of 00_scope.md R6, R7, one after the other. -/
theorem legal_iff_checks {p : Params} : p.legal = true ↔
    p.nchOk = true ∧ p.initLengthsOk = true ∧ p.freqLimitsOk = true ∧ p.initFreqOk = true ∧ p.initDutyOk = true ∧
    p.initPhaseOk = true ∧ p.masterPhaseOk = true ∧ p.absMaskOk = true ∧ p.syncIvlOk = true ∧ p.missMaxOk = true ∧
    p.hardMulOk = true ∧ p.nbufOk = true := by
  simp only [Params.legal, Bool.and_eq_true, and_assoc]

theorem legal_initLengths {p : Params} (h : p.legal = true) :
    p.initFreq.length = p.nch ∧ p.initDuty.length = p.nch ∧ p.initPhase.length = p.nch := by
  obtain ⟨-, hlengths, -⟩ := legal_iff_checks.mp h
  exact of_decide_eq_true hlengths

theorem legal_initFreq {p : Params} (h : p.legal = true) {f : U16} (hf : f ∈ p.initFreq) : FreqInRange p f := by
  obtain ⟨-, -, -, hfreq, -⟩ := legal_iff_checks.mp h
  exact of_decide_eq_true (List.all_eq_true.mp hfreq f hf)

theorem legal_initDuty {p : Params} (h : p.legal = true) {d : U16} (hd : d ∈ p.initDuty) : d.toNat ≤ 10000 := by
  obtain ⟨-, -, -, -, hduty, -⟩ := legal_iff_checks.mp h
  exact of_decide_eq_true (List.all_eq_true.mp hduty d hd)

theorem legal_initPhase {p : Params} (h : p.legal = true) {q : U16} (hq : q ∈ p.initPhase) : q.toNat ≤ 9999 := by
  obtain ⟨-, -, -, -, -, hphase, -⟩ := legal_iff_checks.mp h
  exact of_decide_eq_true (List.all_eq_true.mp hphase q hq)

theorem legal_masterPhase {p : Params} (h : p.legal = true) (hm : p.role = .master) {q : U16}
    (hq : q ∈ p.initPhase) : q = 0 := by
  obtain ⟨-, -, -, -, -, -, hmaster, -⟩ := legal_iff_checks.mp h
  rcases Bool.or_eq_true _ _ ▸ hmaster with hother | hzero
  · exact absurd hm (of_decide_eq_true hother)
  · exact of_decide_eq_true (List.all_eq_true.mp hzero q hq)

/-! ## A channel after reset -/

/-- A channel after reset is in the window that `recompute` gives (40_timing_model.md R62). -/
theorem atReset_window {d q : U16} (f : U16) (hd : d.toNat ≤ 10000) (hq : q.toNat ≤ 9999) :
    WindowIs (Channel.atReset f d q) :=
  recompute_window (c := Channel.atReset f d q) (periodOf_le f) hd hq

theorem atReset_inv {p : Params} {f d q : U16} (hp : p.legal = true) (hf : FreqInRange p f) (hd : d.toNat ≤ 10000)
    (hq : q.toNat ≤ 9999) (hm : p.role = .master → q = 0) : ChannelInv p (Channel.atReset f d q) := by
  have hge : 152 ≤ (periodOf f).toNat := periodOf_ge ((legal_freqMin hp).trans hf.1)
  have hpositive : 0 < (periodOf f).toNat := lt_of_lt_of_le (by norm_num) hge
  have hw := atReset_window f hd hq
  exact
    { freq := hf, duty := hd, phase := hq, masterPhase := hm, period := periodOf_toNat f, period_ge := hge
      period_le := periodOf_le f, window := hw, start_lt := windowIs_start_lt hw hpositive hq
      end_le := windowIs_end_le hw hpositive hq hd, pos_lt := hpositive
      clientF := fun _ => ⟨rfl, rfl⟩, masterP := fun _ => ⟨rfl, rfl⟩
      pendDuty := Nat.zero_le _, pendPhase := Nat.zero_le _, pendFreq := .inl rfl
      targetDuty := Nat.zero_le _, targetPhase := Nat.zero_le _
      rampFreq := fun h => absurd h Bool.false_ne_true, dirtyF_pend := fun h => absurd h Bool.false_ne_true }

/-- Channel k after reset takes the k-th initial values, which a legal record has. -/
theorem channelsAtReset_getElem? {p : Params} (hp : p.legal = true) {k : Nat} {c : Channel}
    (hc : (channelsAtReset p)[k]? = some c) :
    ∃ f d q, c = Channel.atReset f d q ∧ p.initFreq[k]? = some f ∧ p.initDuty[k]? = some d ∧
      p.initPhase[k]? = some q := by
  obtain ⟨hf, hd, hq⟩ := legal_initLengths hp
  obtain ⟨hk, hc⟩ := List.getElem?_eq_some_iff.mp hc
  simp only [channelsAtReset, List.length_map, List.length_range] at hk
  refine ⟨p.initFreq[k], p.initDuty[k], p.initPhase[k], ?_, List.getElem?_eq_getElem _, List.getElem?_eq_getElem _,
    List.getElem?_eq_getElem _⟩
  rw [← hc]
  simp [channelsAtReset, List.getD_eq_getElem?_getD, hk, hf, hd, hq]

/-! ## The state after reset -/

/-- The table of 10_state.md R36, register by register. -/
theorem resetRegisters_resetOf {p : Params} (hp : p.legal = true) : ResetRegisters p (State.resetOf p) := by
  refine ⟨by simp [State.resetOf, channelsAtReset], fun k c hc => ?_, rfl, rfl, rfl, rfl, rfl, rfl,
    List.length_replicate, fun _ hx => List.eq_of_mem_replicate hx, rfl, rfl, rfl, rfl⟩
  obtain ⟨f, d, q, rfl, hf, hd, hq⟩ := channelsAtReset_getElem? hp hc
  have hwindow : WindowIs (Channel.atReset f d q) :=
    atReset_window f (legal_initDuty hp (List.mem_of_getElem? hd)) (legal_initPhase hp (List.mem_of_getElem? hq))
  exact ⟨hf, hd, hq, periodOf_toNat f, hwindow, rfl, rfl, rfl, rfl, rfl, rfl, rfl, rfl, rfl, rfl, rfl⟩

/-- After reset the invariants of 10_state.md R32 hold (70_reset_and_hazards.md R137). -/
theorem resetOf_inv {p : Params} (hp : p.legal = true) : Inv (State.resetOf p) := by
  have hnbuf : 0 < p.nbuf := (legal_nbuf hp).1
  refine
    { legal := hp, nchans := by simp [State.resetOf, channelsAtReset], chans := fun c hc => ?_
      nbuf := List.length_replicate, head := hnbuf, avg := ?_, rxst := Nat.zero_le _ }
  · obtain ⟨k, hk⟩ := List.mem_iff_getElem?.mp hc
    obtain ⟨f, d, q, rfl, hf, hd, hq⟩ := channelsAtReset_getElem? hp hk
    have hq := List.mem_of_getElem? hq
    exact atReset_inv hp (legal_initFreq hp (List.mem_of_getElem? hf))
      (legal_initDuty hp (List.mem_of_getElem? hd)) (legal_initPhase hp hq) fun hm => legal_masterPhase hp hm hq
  · simp [State.resetOf, Nat.mul_div_cancel_left _ hnbuf]

/-- Settles O12. -/
theorem everyLegalInstanceResetsIntoTheInvariants : Obligations.EveryLegalInstanceResetsIntoTheInvariants :=
  fun _ hp => resetOf_inv hp

/-- The four channels of the default parameters are at 10 Hz and switched off (10_state.md R36, last line). -/
theorem reset_chans : State.reset.chans = List.replicate 4 (Channel.atReset 100 0 0) := rfl

/-- Settles O11. -/
theorem resetStateHoldsTheTable : Obligations.ResetStateHoldsTheTable := by
  refine ⟨fun p hp => ⟨resetRegisters_resetOf hp, rfl⟩, rfl, fun c hc => ?_⟩
  rw [reset_chans] at hc
  rw [List.eq_of_mem_replicate hc]
  decide

/-! ## The step of an arriving RESET -/

/-- What RESET keeps, the stamps, the moves and the outputs, is in no item of 10_state.md R32. -/
theorem resetBlock_keeps {s : State} (hp : s.cfg.legal = true) : Inv (resetBlock s) :=
  { resetOf_inv hp with }

/-- Settles O10. -/
theorem resetRestoresEveryRegister : Obligations.ResetRestoresEveryRegister := by
  intro s a m hlegal henv hreset
  refine ⟨resetBlock { s with env := m }, ?_, resetRegisters_resetOf hlegal, rfl, rfl, rfl, rfl, rfl, rfl⟩
  rw [step_of_arrive hlegal henv, arrive, if_pos hreset]

end Sys2Proof.Machine
end

section
/-! PROOFS. What an instruction can do, said once: BEGIN, TICK, SCHED, GET and LINK3 have a meaning of their own, and
every other instruction writes channels and nothing else (`ExecForm`). The rules of the whole machine are read off it:
what every step keeps, and what no instruction changes. -/

namespace Sys2Proof.Machine

open Sys2Proof.Safety

/-! ## Loops over the channels -/

theorem mapFrom_id {α : Type} (k : Nat) (xs : List α) : mapFrom (fun _ x => x) k xs = xs := by
  induction xs generalizing k with
  | nil => rfl
  | cons x xs ih => simp [mapFrom, ih]

theorem mapChans_id (s : State) : s.mapChans (fun _ c => c) = s := by
  rw [State.mapChans, mapFrom_id]

/-- To write one channel is a loop that writes nothing at the other indices. -/
theorem modifyChan_eq_mapChans (s : State) (k : Nat) (f : Channel → Channel) :
    s.modifyChan k f = s.mapChans fun j c => if k = j then f c else c := by
  have hchans : s.chans.modify k f = mapFrom (fun j c => if k = j then f c else c) 0 s.chans := by
    refine List.ext_getElem? fun j => ?_
    rw [List.getElem?_modify, mapFrom_getElem?, Nat.zero_add]
    split <;> simp
  rw [State.modifyChan, State.mapChans, hchans]

/-- A loop whose body keeps a register keeps it in every channel. -/
theorem map_mapFrom {β : Type} {proj : Channel → β} {f : Nat → Channel → Channel} {xs : List Channel}
    (h : ∀ k, ∀ c ∈ xs, proj (f k c) = proj c) (k : Nat) : (mapFrom f k xs).map proj = xs.map proj := by
  induction xs generalizing k with
  | nil => rfl
  | cons x xs ih =>
    simp only [mapFrom, List.map_cons, h k x List.mem_cons_self, ih fun j c hc => h j c (List.mem_cons_of_mem _ hc)]

/-! ## What an instruction does -/

/-- What the channel writes of the commands have in common, under the parameters `p`. -/
structure CommandWrite (p : Params) (g : Nat → Channel → Channel) : Prop where
  keeps : p.legal = true → ∀ k c, ChannelInv p c → ChannelInv p (g k c)
  out : ∀ k c, (g k c).out = c.out
  freq : p.role = .client → ∀ k c, (g k c).freq = c.freq

theorem commandWrite_id (p : Params) : CommandWrite p fun _ c => c :=
  ⟨fun _ _ _ hc => hc, fun _ _ => rfl, fun _ _ _ => rfl⟩

/-- A write to one channel. -/
theorem commandWrite_one {p : Params} {f : Channel → Channel} (h : CommandWrite p fun _ => f) (n : Nat) :
    CommandWrite p fun k c => if n = k then f c else c where
  keeps hp k c hc := by
    split
    · exact h.keeps hp k c hc
    · exact hc
  out k c := by
    split
    · exact h.out k c
    · rfl
  freq hr k c := by
    split
    · exact h.freq hr k c
    · rfl

/-- The five instructions with a meaning of their own, and the commands that write channels: what these write depends
on the parameters and the millisecond stamp alone. -/
inductive ExecForm : Instr → Prop
  | begin : ExecForm .begin
  | tick : ExecForm .tick
  | sched : ExecForm .sched
  | get (ch : Byte) (sel : U16) : ExecForm (.get ch sel)
  | link3 (m h l : Byte) : ExecForm (.link3 m h l)
  | writes {i : Instr} (g : Params → U32 → Nat → Channel → Channel) (hwrite : ∀ p now, CommandWrite p (g p now))
      (hexec : ∀ s, exec i s = .next (s.mapChans (g s.cfg s.nowMs))) : ExecForm i

/-- A command that checks its operands and, if they pass, writes channels. -/
theorem execForm_of_checked {i : Instr} {rejects : Params → Prop} [DecidablePred rejects]
    {g : U32 → Nat → Channel → Channel} (hwrite : ∀ p now, ¬ rejects p → CommandWrite p (g now))
    (hexec : ∀ s, exec i s = if rejects s.cfg then .next s else .next (s.mapChans (g s.nowMs))) : ExecForm i := by
  refine .writes (fun p now k c => if rejects p then c else g now k c) (fun p now => ?_) fun s => ?_
  · by_cases h : rejects p
    · simp only [if_pos h]
      exact commandWrite_id p
    · simp only [if_neg h]
      exact hwrite p now h
  · rw [hexec]
    by_cases h : rejects s.cfg
    · simp only [if_pos h, mapChans_id]
    · simp only [if_neg h]

/-! ## The writes of the commands -/

/-- What the checks of a command leave of its value and of the role (42_parameter_control.md R76, R77). -/
def CommandOk (q : Params) (v : U16) : Parameter → Prop
  | .freq => q.role ≠ .client ∧ FreqInRange q v
  | .duty => True
  | .phase => q.role ≠ .master

theorem valueOk_of_commandOk {q : Params} {v : U16} {p : Parameter} (h : CommandOk q v p) : ValueOk q v p := by
  cases p
  · exact h.2
  · trivial
  · exact h

theorem clearRact_out (p : Parameter) (c : Channel) : (clearRact p c).out = c.out := by cases p <;> rfl

theorem clearRact_freqValue (p : Parameter) (c : Channel) : (clearRact p c).freq = c.freq := by cases p <;> rfl

theorem setParam_out (p : Parameter) (v : U16) (c : Channel) : (setParam p v c).out = c.out := by cases p <;> rfl

/-- On a client the value of a command that passes its checks is no frequency. -/
theorem setParam_freq_of_client {q : Params} {v : U16} {p : Parameter} (h : CommandOk q v p) (hr : q.role = .client)
    (c : Channel) : (setParam p v c).freq = c.freq := by
  cases p
  · exact absurd hr h.1
  · rfl
  · rfl

/-- The immediate setters (42_parameter_control.md R79 to R82, R116). -/
theorem commandWrite_set {q : Params} {v : U16} {p : Parameter} (h : CommandOk q v p) :
    CommandWrite q fun _ c => clearRact p (setParam p v c) where
  keeps hq _ _ hc := clearRact_keeps p (setParam_keeps hq hc (valueOk_of_commandOk h))
  out _ c := (clearRact_out p _).trans (setParam_out p v c)
  freq hr _ c := (clearRact_freqValue p _).trans (setParam_freq_of_client h hr c)

/-- SET_FREQ_NEXT (44_sequencing.md R105): the checks make the dirty pending frequency a legal one. -/
theorem commandWrite_freqNext {q : Params} {v : U16} (h : CommandOk q v .freq) :
    CommandWrite q fun _ c => clearRact .freq { c with pendFreq := v, dirtyF := true } where
  keeps _ _ c hc :=
    clearRact_keeps (c := { c with pendFreq := v, dirtyF := true }) .freq
      { hc with clientF := fun hr => absurd hr h.1, pendFreq := .inr h.2, dirtyF_pend := fun _ => h.2 }
  out _ _ := rfl
  freq _ _ _ := rfl

/-- SET_DUTY_NEXT (44_sequencing.md R106). -/
theorem commandWrite_dutyNext (q : Params) (v : U16) :
    CommandWrite q fun _ c => clearRact .duty { c with pendDuty := clampDuty v, dirtyD := true } where
  keeps _ _ c hc :=
    clearRact_keeps (c := { c with pendDuty := clampDuty v, dirtyD := true }) .duty { hc with pendDuty := clampDuty_le v }
  out _ _ := rfl
  freq _ _ _ := rfl

/-- SET_PHASE_NEXT (44_sequencing.md R107). -/
theorem commandWrite_phaseNext {q : Params} (v : U16) (hm : q.role ≠ .master) :
    CommandWrite q fun _ c => clearRact .phase { c with pendPhase := clampPhase v, dirtyP := true } where
  keeps _ _ c hc :=
    clearRact_keeps (c := { c with pendPhase := clampPhase v, dirtyP := true }) .phase
      { hc with masterP := fun h => absurd h hm, pendPhase := clampPhase_le v }
  out _ _ := rfl
  freq _ _ _ := rfl

/-- The targets that 10_state.md R32 allows in a ramp record. -/
def TargetOk (v : U16) : Parameter → Prop
  | .freq => True
  | .duty => v.toNat ≤ 10000
  | .phase => v.toNat ≤ 9999

/-- A ramp record as RAMP_FREQ, RAMP_DUTY, RAMP_PHASE write it. -/
theorem setRamp_keeps {q : Params} {c : Channel} {r : Ramp} {p : Parameter} (hc : ChannelInv q c)
    (hok : CommandOk q r.target p) (htarget : TargetOk r.target p) (hstart : r.start = c.value p) :
    ChannelInv q (c.setRamp r p) := by
  cases p
  · exact { hc with clientF := fun hr => absurd hr hok.1, rampFreq := fun _ => ⟨hstart ▸ hc.freq, hok.2⟩ }
  · exact { hc with targetDuty := htarget }
  · exact { hc with masterP := fun hm => absurd hm hok, targetPhase := htarget }

/-- The ramp commands (44_sequencing.md R109 to R112): a target set at once, or a record. -/
theorem commandWrite_ramp {q : Params} {tgt : U16} {p : Parameter} (h : CommandOk q tgt p) (htarget : TargetOk tgt p)
    (dur dly : U16) (now : U32) : CommandWrite q fun _ => startRamp p tgt dur dly now := by
  unfold startRamp
  by_cases hnow : dur = 0 ∧ dly = 0
  · simp only [if_pos hnow]
    exact commandWrite_set h
  · simp only [if_neg hnow]
    exact
      { keeps := fun _ _ _ hc => setRamp_keeps hc h htarget rfl
        out := fun _ _ => by cases p <;> rfl
        freq := fun _ _ _ => by cases p <;> rfl }

/-! ## The form of every instruction -/

/-- The checks of a frequency command but the index: role and range (42_parameter_control.md R76, R77). -/
abbrev FreqRejected (v : U16) (p : Params) : Prop :=
  p.role = .client ∨ v.toNat < p.freqMin.toNat ∨ p.freqMax.toNat < v.toNat

theorem commandOk_of_not_freqRejected {p : Params} {v : U16} (h : ¬ FreqRejected v p) : CommandOk p v .freq := by
  unfold FreqRejected at h
  push Not at h
  exact h

section
variable (ch : Byte) (v dur dly : U16)

theorem execForm_setGFreq : ExecForm (.setGFreq v) :=
  execForm_of_checked (rejects := FreqRejected v) (g := fun _ _ c => clearRact .freq (setParam .freq v c))
    (fun _ _ h => commandWrite_set (commandOk_of_not_freqRejected h))
    fun s => by simp only [exec_setGFreq, ite_or]

theorem execForm_of_freqCommand {i : Instr} {f : U32 → Channel → Channel}
    (hwrite : ∀ p now, CommandOk p v .freq → CommandWrite p fun _ => f now)
    (hexec : ∀ s, exec i s = if s.cfg.nch ≤ ch.toNat then .next s
      else if s.cfg.role = .client then .next s
      else if v.toNat < s.cfg.freqMin.toNat ∨ s.cfg.freqMax.toNat < v.toNat then .next s
      else .next (s.modifyChan ch.toNat (f s.nowMs))) : ExecForm i :=
  execForm_of_checked (rejects := fun p => p.nch ≤ ch.toNat ∨ FreqRejected v p)
    (fun p now h => commandWrite_one (hwrite p now (commandOk_of_not_freqRejected (not_or.mp h).2)) ch.toNat)
    fun s => by simp only [hexec, ite_or, modifyChan_eq_mapChans]

theorem execForm_of_dutyCommand {i : Instr} {f : U32 → Channel → Channel}
    (hwrite : ∀ p now, CommandWrite p fun _ => f now)
    (hexec : ∀ s, exec i s = if s.cfg.nch ≤ ch.toNat then .next s
      else .next (s.modifyChan ch.toNat (f s.nowMs))) : ExecForm i :=
  execForm_of_checked (rejects := fun p => p.nch ≤ ch.toNat)
    (fun p now _ => commandWrite_one (hwrite p now) ch.toNat)
    fun s => by simp only [hexec, modifyChan_eq_mapChans]

theorem execForm_of_phaseCommand {i : Instr} {f : U32 → Channel → Channel}
    (hwrite : ∀ p now, p.role ≠ .master → CommandWrite p fun _ => f now)
    (hexec : ∀ s, exec i s = if s.cfg.nch ≤ ch.toNat then .next s
      else if s.cfg.role = .master then .next s
      else .next (s.modifyChan ch.toNat (f s.nowMs))) : ExecForm i :=
  execForm_of_checked (rejects := fun p => p.nch ≤ ch.toNat ∨ p.role = .master)
    (fun p now h => commandWrite_one (hwrite p now (not_or.mp h).2) ch.toNat)
    fun s => by simp only [hexec, ite_or, modifyChan_eq_mapChans]

end

theorem execForm (i : Instr) : ExecForm i := by
  cases i with
  | nop => exact .writes (fun _ _ _ c => c) (fun p _ => commandWrite_id p) fun s => by rw [exec_nop, mapChans_id]
  | begin => exact .begin
  | tick => exact .tick
  | sched => exact .sched
  | setFreq ch v =>
    exact execForm_of_freqCommand ch v (fun _ _ h => commandWrite_set h) (exec_setFreq ch v)
  | setDuty ch v =>
    exact execForm_of_dutyCommand ch (fun _ _ => commandWrite_set (p := .duty) trivial) (exec_setDuty ch v)
  | setPhase ch v =>
    exact execForm_of_phaseCommand ch (fun _ _ h => commandWrite_set (p := .phase) h) (exec_setPhase ch v)
  | setGFreq v => exact execForm_setGFreq v
  | setFreqNext ch v =>
    exact execForm_of_freqCommand ch v (fun _ _ h => commandWrite_freqNext h) (exec_setFreqNext ch v)
  | setDutyNext ch v =>
    exact execForm_of_dutyCommand ch (fun p _ => commandWrite_dutyNext p v) (exec_setDutyNext ch v)
  | setPhaseNext ch v =>
    exact execForm_of_phaseCommand ch (fun _ _ h => commandWrite_phaseNext v h) (exec_setPhaseNext ch v)
  | rampFreq ch v dur dly =>
    exact execForm_of_freqCommand ch v (fun _ now h => commandWrite_ramp h trivial dur dly now)
      (exec_rampFreq ch v dur dly)
  | rampDuty ch v dur dly =>
    exact execForm_of_dutyCommand ch
      (fun _ now => commandWrite_ramp (p := .duty) trivial (clampDuty_le v) dur dly now) (exec_rampDuty ch v dur dly)
  | rampPhase ch v dur dly =>
    exact execForm_of_phaseCommand ch
      (fun _ now h => commandWrite_ramp (p := .phase) h (clampPhase_le v) dur dly now) (exec_rampPhase ch v dur dly)
  | get ch sel => exact .get ch sel
  | link3 m h l => exact .link3 m h l

end Sys2Proof.Machine
end

section
/-! PROOFS. The rules of the whole machine, from what an instruction can do: every step answers, keeps the invariants
(10_state.md R32), the parameters (00_scope.md R6), `RUN` (10_state.md R20) and `SYNCED` (R24). -/

namespace Sys2Proof.Machine

open Sys2Proof.Safety

/-! ## What an event and a link byte can do -/

/-- An event is an instruction, an edge or a byte; a reserved word is a NOP. -/
theorem serveEvent_cases (e : Event) (s : State) :
    (∃ i, serveEvent e s = exec i s) ∨ serveEvent e s = .next (serveSyncEdge s) ∨
      ∃ b, serveEvent e s = .next (serveSyncByte b s) := by
  cases e with
  | cmd w =>
    cases hdecoded : decodeCmd w with
    | ok i => exact .inl ⟨i, serveEvent_cmd_of_decodeCmd_ok hdecoded s⟩
    | error r => exact .inl ⟨.nop, serveEvent_cmd_of_decodeCmd_error hdecoded s⟩
  | tickIn => exact .inl ⟨.tick, rfl⟩
  | schedIn => exact .inl ⟨.sched, rfl⟩
  | syncEdge => exact .inr (.inl rfl)
  | syncByte b => exact .inr (.inr ⟨b, rfl⟩)
  | packet w => exact .inl ⟨decodeLink w, rfl⟩

theorem serveSyncEdge_cases (s : State) : serveSyncEdge s = s ∨ serveSyncEdge s = capture s.nowUs s := by
  unfold serveSyncEdge
  split
  · exact .inr rfl
  · exact .inl rfl

/-- A byte moves the deframer, or ends a packet (43_synchronization.md R100). -/
theorem serveSyncByte_cases (b : Byte) (s : State) :
    (∃ st hi, serveSyncByte b s = { s with rxst := st, rxhi := hi }) ∨
      ∃ f, serveSyncByte b s = adopt f (capture s.nowUs { s with rxst := .idle }) := by
  unfold serveSyncByte
  split
  · split
    · split
      · exact .inl ⟨.gotMarker, s.rxhi, rfl⟩
      · exact .inl ⟨s.rxst, s.rxhi, rfl⟩
    · exact .inl ⟨.gotHi, b, rfl⟩
    · exact .inr ⟨_, rfl⟩
  · exact .inl ⟨s.rxst, s.rxhi, rfl⟩

theorem exec_link3 (m h l : Byte) (s : State) :
    exec (.link3 m h l) s = .next (serveSyncByte l (serveSyncByte h (serveSyncByte m s))) := rfl

theorem exec_get (ch : Byte) (sel : U16) (s : State) :
    exec (.get ch sel) s = .next (s.emit [.resp (regRead s ch sel)]) := rfl

/-! ## Every step answers -/

theorem exec_answers (i : Instr) (s : State) : ∃ t, exec i s = .next t := by
  cases execForm i with
  | begin =>
    by_cases hrun : s.run = true
    · exact ⟨_, exec_begin_of_run hrun⟩
    · exact ⟨_, exec_begin_of_not_run hrun⟩
  | tick => exact ⟨_, exec_tick s⟩
  | sched => exact ⟨_, rfl⟩
  | get ch sel => exact ⟨_, exec_get ch sel s⟩
  | link3 m h l => exact ⟨_, exec_link3 m h l s⟩
  | writes g _ hexec => exact ⟨_, hexec s⟩

theorem serveEvent_answers (e : Event) (s : State) : ∃ t, serveEvent e s = .next t := by
  rcases serveEvent_cases e s with ⟨i, h⟩ | h | ⟨b, h⟩
  · rw [h]
    exact exec_answers i s
  · exact ⟨_, h⟩
  · exact ⟨_, h⟩

/-- Settles O14. -/
theorem legalInstanceNeverStops : Obligations.LegalInstanceNeverStops := by
  intro s hlegal
  cases hpick : nextPick s with
  | settled t => exact ⟨t, step_of_settled hlegal hpick⟩
  | serve e u =>
    rw [step_of_served hlegal hpick]
    exact serveEvent_answers e u

/-! ## Every step keeps the invariants -/

theorem adopt_keeps {s : State} (hs : Inv s) (f : U16) : Inv (adopt f s) := by
  unfold adopt
  split
  case isTrue h =>
    rw [Bool.and_eq_true, Bool.not_eq_true', badFreq_eq_false] at h
    exact mapChans_keeps hs fun _ _ hc => setFreq_keeps hs.legal hc h.2
  case isFalse => exact hs

theorem rxstCode_le (st : RxState) : (rxstCode st).toNat ≤ 2 := by cases st <;> decide

/-- The deframer has three states, and R32 speaks of no received byte. -/
theorem inv_with_deframer {s : State} (hs : Inv s) (st : RxState) (hi : Byte) :
    Inv { s with rxst := st, rxhi := hi } :=
  { hs with rxst := rxstCode_le st }

theorem serveSyncEdge_keeps {s : State} (hs : Inv s) : Inv (serveSyncEdge s) := by
  rcases serveSyncEdge_cases s with h | h
  · rwa [h]
  · rw [h]
    exact capture_keeps hs s.nowUs

theorem serveSyncByte_keeps {s : State} (hs : Inv s) (b : Byte) : Inv (serveSyncByte b s) := by
  rcases serveSyncByte_cases b s with ⟨st, hi, h⟩ | ⟨f, h⟩
  · rw [h]
    exact inv_with_deframer hs st hi
  · rw [h]
    exact adopt_keeps (capture_keeps (inv_with_idle hs) s.nowUs) f

theorem rampStep_keeps {s : State} (hs : Inv s) (now : U32) : Inv (rampStep now s) :=
  mapChans_keeps hs fun _ _ hc => rampStepChan_keeps hs.legal hc now

theorem exec_keeps {i : Instr} {s t : State} (hs : Inv s) (h : exec i s = .next t) : Inv t := by
  cases execForm i with
  | begin =>
    by_cases hrun : s.run = true
    · cases (exec_begin_of_run hrun).symm.trans h
      exact hs
    · cases (exec_begin_of_not_run hrun).symm.trans h
      exact { hs with }
  | tick =>
    cases h
    exact tick_keeps hs s.nowUs
  | sched =>
    by_cases hrun : s.run = true
    · cases (exec_sched_of_run hrun).symm.trans h
      exact rampStep_keeps (tickIfScheduled_keeps (applyPending_keeps hs)) s.nowMs
    · cases (exec_sched_of_not_run (Bool.eq_false_of_not_eq_true hrun)).symm.trans h
      exact hs
  | get ch sel =>
    cases h
    exact { hs with }
  | link3 m hi lo =>
    cases h
    exact serveSyncByte_keeps (serveSyncByte_keeps (serveSyncByte_keeps hs m) hi) lo
  | writes g hwrite hexec =>
    cases (hexec s).symm.trans h
    exact mapChans_keeps hs fun k c hc => (hwrite s.cfg s.nowMs).keeps hs.legal k c hc

theorem serveEvent_keeps {e : Event} {s t : State} (hs : Inv s) (h : serveEvent e s = .next t) : Inv t := by
  rcases serveEvent_cases e s with ⟨i, he⟩ | he | ⟨b, he⟩
  · exact exec_keeps hs (he.symm.trans h)
  · cases he.symm.trans h
    exact serveSyncEdge_keeps hs
  · cases he.symm.trans h
    exact serveSyncByte_keeps hs b

/-- The invariants speak of the parameters and the registers: not of the queue, the moves and the latched stamps. -/
theorem inv_with_queue {s : State} (hs : Inv s) (q : List Stamped) (m : List EnvMove) (us ms : U32) :
    Inv { s with waiting := q, env := m, nowUs := us, nowMs := ms } :=
  { hs with }

/-- Settles O13: a step settles, resets, or serves an event, and each keeps the invariants. -/
theorem everyStepKeepsTheInvariants : Obligations.EveryStepKeepsTheInvariants := by
  intro s t hs hstep
  obtain ⟨hlegal, hsettled | ⟨e, u, hserved, he⟩⟩ := step_next_cases hstep
  · rcases nextPick_settled hsettled with h | ⟨a, m, -, -, h⟩
    · rw [h]
      exact inv_with_queue hs _ _ _ _
    · rw [h]
      exact resetBlock_keeps hlegal
  · refine serveEvent_keeps ?_ he
    rw [nextPick_serve hserved]
    exact inv_with_queue hs _ _ _ _

/-! ## Every step keeps the parameters, `RUN` and `SYNCED` -/

/-- What everything but RESET leaves set, and the parameters. -/
structure FlagsKept (s t : State) : Prop where
  cfg : t.cfg = s.cfg
  run : s.run = true → t.run = true
  synced : s.synced = true → t.synced = true

theorem FlagsKept.refl (s : State) : FlagsKept s s := ⟨rfl, id, id⟩

theorem FlagsKept.trans {s t u : State} (h : FlagsKept s t) (h' : FlagsKept t u) : FlagsKept s u :=
  ⟨h'.cfg.trans h.cfg, h'.run ∘ h.run, h'.synced ∘ h.synced⟩

theorem mapChans_flags (s : State) (f : Nat → Channel → Channel) : FlagsKept s (s.mapChans f) := ⟨rfl, id, id⟩

theorem tick_flags (now : U32) (s : State) : FlagsKept s (tick now s) := by
  unfold tick emitCheck
  dsimp only
  split_ifs <;> exact ⟨rfl, id, id⟩

theorem tickIfScheduled_flags (s : State) : FlagsKept s (tickIfScheduled s) := by
  unfold tickIfScheduled
  split
  · exact tick_flags s.nowUs s
  · exact .refl s

/-- A reference event sets `SYNCED` (43_synchronization.md R94, R99). -/
theorem capture_flags (now : U32) (s : State) : FlagsKept s (capture now s) := by
  unfold capture captureInterval
  dsimp only
  split_ifs <;> exact ⟨rfl, id, fun _ => rfl⟩

theorem adopt_flags (f : U16) (s : State) : FlagsKept s (adopt f s) := by
  unfold adopt
  split
  · exact mapChans_flags s _
  · exact .refl s

theorem serveSyncEdge_flags (s : State) : FlagsKept s (serveSyncEdge s) := by
  rcases serveSyncEdge_cases s with h | h
  · rw [h]
    exact .refl s
  · rw [h]
    exact capture_flags s.nowUs s

theorem serveSyncByte_flags (b : Byte) (s : State) : FlagsKept s (serveSyncByte b s) := by
  rcases serveSyncByte_cases b s with ⟨st, hi, h⟩ | ⟨f, h⟩
  · rw [h]
    exact ⟨rfl, id, id⟩
  · rw [h]
    exact (show FlagsKept s { s with rxst := .idle } from ⟨rfl, id, id⟩).trans
      ((capture_flags s.nowUs _).trans (adopt_flags f _))

theorem exec_flags {i : Instr} {s t : State} (h : exec i s = .next t) : FlagsKept s t := by
  cases execForm i with
  | begin =>
    by_cases hrun : s.run = true
    · cases (exec_begin_of_run hrun).symm.trans h
      exact .refl s
    · cases (exec_begin_of_not_run hrun).symm.trans h
      exact ⟨rfl, fun _ => rfl, id⟩
  | tick =>
    cases h
    exact tick_flags s.nowUs s
  | sched =>
    by_cases hrun : s.run = true
    · cases (exec_sched_of_run hrun).symm.trans h
      exact (mapChans_flags s _).trans ((tickIfScheduled_flags (applyPending s)).trans (mapChans_flags _ _))
    · cases (exec_sched_of_not_run (Bool.eq_false_of_not_eq_true hrun)).symm.trans h
      exact .refl s
  | get ch sel =>
    cases h
    exact ⟨rfl, id, id⟩
  | link3 m hi lo =>
    cases h
    exact (serveSyncByte_flags m s).trans ((serveSyncByte_flags hi _).trans (serveSyncByte_flags lo _))
  | writes g _ hexec =>
    cases (hexec s).symm.trans h
    exact mapChans_flags s _

theorem serveEvent_flags {e : Event} {s t : State} (h : serveEvent e s = .next t) : FlagsKept s t := by
  rcases serveEvent_cases e s with ⟨i, he⟩ | he | ⟨b, he⟩
  · exact exec_flags (he.symm.trans h)
  · cases he.symm.trans h
    exact serveSyncEdge_flags s
  · cases he.symm.trans h
    exact serveSyncByte_flags b s

/-- A step that does not reset keeps the flags; one that resets keeps the parameters. -/
theorem step_flags {s t : State} (h : step s = .next t) :
    FlagsKept s t ∨ ResetArrives s ∧ t.cfg = s.cfg := by
  obtain ⟨-, hsettled | ⟨e, u, hserved, he⟩⟩ := step_next_cases h
  · rcases nextPick_settled hsettled with h | ⟨a, m, henv, hreset, h⟩
    · left
      rw [h]
      exact ⟨rfl, id, id⟩
    · exact .inr ⟨⟨a, m, henv, hreset⟩, by rw [h]; rfl⟩
  · left
    have hu : FlagsKept s u := by
      rw [nextPick_serve hserved]
      exact ⟨rfl, id, id⟩
    exact hu.trans (serveEvent_flags he)

/-- Settles O16. -/
theorem parametersNeverChange : Obligations.ParametersNeverChange :=
  fun _ _ h => (step_flags h).elim FlagsKept.cfg And.right

/-- Settles O17. -/
theorem onlyResetClearsRun : Obligations.OnlyResetClearsRun :=
  fun _ _ h hrun hreset => ((step_flags h).resolve_right fun hr => hreset hr.1).run hrun

/-- Settles O18. -/
theorem onlyResetClearsSynced : Obligations.OnlyResetClearsSynced :=
  fun _ _ h hsynced hreset => ((step_flags h).resolve_right fun hr => hreset hr.1).synced hsynced

end Sys2Proof.Machine
end

section
/-! PROOFS. What no instruction changes, from what an instruction can do: an output latch outside a tick
(41_phase_accumulator.md R70), a client's frequency outside the link (42_parameter_control.md R76), and what the average
has no effect on (43_synchronization.md R103). -/

namespace Sys2Proof.Machine

open Sys2Proof.Safety

/-! ## The output latches -/

/-- The latches are as before, and no pin was driven. -/
structure LatchesKept (s t : State) : Prop where
  out : t.chans.map Channel.out = s.chans.map Channel.out
  pins : ∃ os, t.trace = s.trace ++ os ∧ ∀ c v, Output.pinWrite c v ∉ os

theorem LatchesKept.of_trace_eq {s t : State} (hout : t.chans.map Channel.out = s.chans.map Channel.out)
    (htrace : t.trace = s.trace) : LatchesKept s t :=
  ⟨hout, [], by rw [htrace, List.append_nil], fun _ _ => List.not_mem_nil⟩

theorem LatchesKept.refl (s : State) : LatchesKept s s := .of_trace_eq rfl rfl

theorem LatchesKept.trans {s t u : State} (h : LatchesKept s t) (h' : LatchesKept t u) : LatchesKept s u := by
  obtain ⟨hout, os, htrace, hpins⟩ := h
  obtain ⟨hout', os', htrace', hpins'⟩ := h'
  refine ⟨hout'.trans hout, os ++ os', by rw [htrace', htrace, List.append_assoc], fun c v hmem => ?_⟩
  exact (List.mem_append.mp hmem).elim (hpins c v) (hpins' c v)

theorem mapChans_latches (s : State) {f : Nat → Channel → Channel} (h : ∀ k c, (f k c).out = c.out) :
    LatchesKept s (s.mapChans f) :=
  .of_trace_eq (map_mapFrom (fun k c _ => h k c) 0) rfl

theorem applyPendingChan_out (c : Channel) : (applyPendingChan c).out = c.out := by
  unfold applyPendingChan applyPhase applyDuty applyFreq
  split_ifs <;> rfl

theorem rampStepParam_out (now : U32) (p : Parameter) (c : Channel) : (rampStepParam now p c).out = c.out := by
  unfold rampStepParam
  dsimp only
  split_ifs
  · rw [clearRact_out, setParam_out]
  · rw [setParam_out]
  · rfl

theorem rampStepChan_out (now : U32) (c : Channel) : (rampStepChan now c).out = c.out := by
  simp only [rampStepChan, rampStepParam_out]

/-- A pass without a tick drives no pin (44_sequencing.md R113). -/
theorem sched_latches {s t : State} (hticks : s.cfg.schedTicks = false) (h : exec .sched s = .next t) :
    LatchesKept s t := by
  by_cases hrun : s.run = true
  · have hmiddle : tickIfScheduled (applyPending s) = applyPending s :=
      if_neg (by rw [applyPending_cfg, hticks]; exact Bool.false_ne_true)
    cases (exec_sched_of_run hrun).symm.trans h
    rw [hmiddle]
    exact (mapChans_latches s fun _ => applyPendingChan_out).trans
      (mapChans_latches _ fun _ => rampStepChan_out s.nowMs)
  · cases (exec_sched_of_not_run (Bool.eq_false_of_not_eq_true hrun)).symm.trans h
    exact .refl s

theorem nudgeChan_out (p : Params) (err : Int) (k : Nat) (c : Channel) : (nudgeChan p err k c).out = c.out := by
  unfold nudgeChan
  split <;> rfl

theorem capture_latches (now : U32) (s : State) : LatchesKept s (capture now s) := by
  have hresync : LatchesKept s (hardResync now s) := 
    .of_trace_eq (map_mapFrom (f := fun _ c => { c with pos := 0 }) (fun _ _ _ => rfl) 0) rfl
  unfold capture captureInterval
  dsimp only
  split_ifs
  · exact hresync
  · exact hresync
  · exact .of_trace_eq (map_mapFrom (fun k c _ => nudgeChan_out _ _ k c) 0) rfl
  · exact .of_trace_eq rfl rfl

theorem adopt_latches (f : U16) (s : State) : LatchesKept s (adopt f s) := by
  unfold adopt
  split
  · exact mapChans_latches s fun _ => setParam_out .freq f
  · exact .refl s

theorem serveSyncByte_latches (b : Byte) (s : State) : LatchesKept s (serveSyncByte b s) := by
  rcases serveSyncByte_cases b s with ⟨st, hi, h⟩ | ⟨f, h⟩
  · rw [h]
    exact .of_trace_eq rfl rfl
  · rw [h]
    have hidle : LatchesKept s { s with rxst := .idle } := .of_trace_eq rfl rfl
    exact hidle.trans ((capture_latches s.nowUs _).trans (adopt_latches f _))

/-- Settles O19. -/
theorem outputLatchChangesOnlyInTicks : Obligations.OutputLatchChangesOnlyInTicks := by
  intro i s t h hnotTick hnoTicks
  suffices LatchesKept s t from ⟨this.out, this.pins⟩
  cases execForm i with
  | begin =>
    by_cases hrun : s.run = true
    · cases (exec_begin_of_run hrun).symm.trans h
      exact .refl s
    · cases (exec_begin_of_not_run hrun).symm.trans h
      exact .of_trace_eq rfl rfl
  | tick => exact absurd rfl hnotTick
  | sched => exact sched_latches (hnoTicks rfl) h
  | get ch sel =>
    cases h
    exact ⟨rfl, _, rfl, by simp⟩
  | link3 m hi lo =>
    cases h
    exact (serveSyncByte_latches m s).trans ((serveSyncByte_latches hi _).trans (serveSyncByte_latches lo _))
  | writes g hwrite hexec =>
    cases (hexec s).symm.trans h
    exact mapChans_latches s (hwrite s.cfg s.nowMs).out

/-! ## The frequency of a client -/

theorem tick_of_master {s : State} {now : U32} (hrun : s.run = true) (hmaster : s.cfg.role = .master) :
    tick now s = emitCheck now (tickChannels now s) :=
  (if_pos hrun).trans (if_pos hmaster)

theorem tick_of_not_master {s : State} {now : U32} (hrun : s.run = true) (hmaster : ¬ s.cfg.role = .master) :
    tick now s = tickChannels now s :=
  (if_pos hrun).trans (if_neg hmaster)

theorem emitCheck_chans (now : U32) (s : State) : (emitCheck now s).chans = s.chans := by
  unfold emitCheck
  dsimp only
  split <;> rfl

theorem tick_freqs (now : U32) (s : State) : (tick now s).chans.map Channel.freq = s.chans.map Channel.freq := by
  have hticked : (tickChannels now s).chans.map Channel.freq = s.chans.map Channel.freq :=
    map_mapFrom (f := tickChan s.cfg now (sub32 now s.lastTick) s.refTime) (fun _ _ _ => rfl) 0
  by_cases hrun : s.run = true
  · by_cases hmaster : s.cfg.role = .master
    · rw [tick_of_master hrun hmaster, emitCheck_chans, hticked]
    · rw [tick_of_not_master hrun hmaster, hticked]
  · rw [tick_of_not_run (Bool.eq_false_of_not_eq_true hrun)]

/-- Nothing is pending for a client's frequency (10_state.md R32). -/
theorem applyPendingChan_freq {p : Params} {c : Channel} (hc : ChannelInv p c) (hr : p.role = .client) :
    (applyPendingChan c).freq = c.freq := by
  have hclean : applyFreq c = c := if_neg (by rw [(hc.clientF hr).2]; exact Bool.false_ne_true)
  unfold applyPendingChan applyPhase applyDuty
  rw [hclean]
  split_ifs <;> rfl

theorem rampStepParam_other_freq (now : U32) {p : Parameter} (h : p ≠ .freq) (c : Channel) :
    (rampStepParam now p c).freq = c.freq := by
  cases p
  · exact absurd rfl h
  · unfold rampStepParam; dsimp only; split_ifs <;> rfl
  · unfold rampStepParam; dsimp only; split_ifs <;> rfl

/-- No frequency ramp runs on a client (10_state.md R32). -/
theorem rampStepChan_freq {p : Params} {c : Channel} (hc : ChannelInv p c) (hr : p.role = .client) (now : U32) :
    (rampStepChan now c).freq = c.freq := by
  have hidle : rampStepParam now .freq c = c :=
    if_neg (by rw [show (c.ramp .freq).act = false from (hc.clientF hr).1]; exact Bool.false_ne_true)
  rw [rampStepChan, rampStepParam_other_freq now (by decide), rampStepParam_other_freq now (by decide), hidle]

/-- A pass on a client has no frequency to apply (44_sequencing.md R113). -/
theorem sched_freqs {s t : State} (hs : Inv s) (hr : s.cfg.role = .client) (h : exec .sched s = .next t) :
    t.chans.map Channel.freq = s.chans.map Channel.freq := by
  by_cases hrun : s.run = true
  · have happlied := applyPending_keeps hs
    have hmiddle := tickIfScheduled_keeps happlied
    have hr' : (tickIfScheduled (applyPending s)).cfg.role = .client :=
      (congrArg Params.role (tickIfScheduled_flags (applyPending s)).cfg).trans hr
    cases (exec_sched_of_run hrun).symm.trans h
    calc (rampStep s.nowMs (tickIfScheduled (applyPending s))).chans.map Channel.freq
        = (tickIfScheduled (applyPending s)).chans.map Channel.freq :=
          map_mapFrom (fun _ c hc => rampStepChan_freq (hmiddle.chans c hc) hr' s.nowMs) 0
      _ = (applyPending s).chans.map Channel.freq := by
          unfold tickIfScheduled
          split
          · exact tick_freqs _ _
          · rfl
      _ = s.chans.map Channel.freq := map_mapFrom (fun _ c hc => applyPendingChan_freq (hs.chans c hc) hr) 0
  · cases (exec_sched_of_not_run (Bool.eq_false_of_not_eq_true hrun)).symm.trans h
    rfl

/-- Settles O20. -/
theorem clientFrequencyChangesOnlyByTheLink : Obligations.ClientFrequencyChangesOnlyByTheLink := by
  intro i s t hs hr h hnotLink
  cases execForm i with
  | begin =>
    by_cases hrun : s.run = true
    · cases (exec_begin_of_run hrun).symm.trans h
      rfl
    · cases (exec_begin_of_not_run hrun).symm.trans h
      rfl
  | tick =>
    cases h
    exact tick_freqs s.nowUs s
  | sched => exact sched_freqs hs hr h
  | get ch sel =>
    cases h
    rfl
  | link3 m hi lo => exact absurd rfl (hnotLink m hi lo)
  | writes g hwrite hexec =>
    cases (hexec s).symm.trans h
    exact map_mapFrom (fun k c _ => (hwrite s.cfg s.nowMs).freq hr k c) 0

/-! ## The average -/

/-- The state with another ring buffer, head and average. -/
def State.withAverage (s : State) (b : List U32) (h : Nat) (a : U32) : State :=
  { s with buf := b, head := h, avg := a }

section
variable (b : List U32) (h : Nat) (a : U32) (s : State)

theorem emitCheck_withAverage (now : U32) :
    emitCheck now (s.withAverage b h a) = (emitCheck now s).withAverage b h a := by
  unfold emitCheck
  dsimp only
  rw [apply_ite (fun u => State.withAverage u b h a)]
  rfl

theorem tick_withAverage (now : U32) : tick now (s.withAverage b h a) = (tick now s).withAverage b h a := by
  by_cases hrun : s.run = true
  · by_cases hmaster : s.cfg.role = .master
    · rw [tick_of_master hrun hmaster, tick_of_master (s := s.withAverage b h a) hrun hmaster]
      exact emitCheck_withAverage b h a (tickChannels now s) now
    · rw [tick_of_not_master hrun hmaster, tick_of_not_master (s := s.withAverage b h a) hrun hmaster]
      rfl
  · have hrun := Bool.eq_false_of_not_eq_true hrun
    rw [tick_of_not_run hrun, tick_of_not_run (s := s.withAverage b h a) hrun]

theorem tickIfScheduled_withAverage :
    tickIfScheduled (s.withAverage b h a) = (tickIfScheduled s).withAverage b h a := by
  unfold tickIfScheduled
  rw [apply_ite (fun u => State.withAverage u b h a), ← tick_withAverage]
  rfl

theorem exec_sched_withAverage {t : State} (hexec : exec .sched s = .next t) :
    exec .sched (s.withAverage b h a) = .next (t.withAverage b h a) := by
  by_cases hrun : s.run = true
  · cases (exec_sched_of_run hrun).symm.trans hexec
    rw [exec_sched_of_run (s := s.withAverage b h a) hrun]
    exact congrArg (fun u => Host.Outcome.next (rampStep s.nowMs u)) (tickIfScheduled_withAverage b h a (applyPending s))
  · have hrun := Bool.eq_false_of_not_eq_true hrun
    cases (exec_sched_of_not_run hrun).symm.trans hexec
    exact exec_sched_of_not_run (s := s.withAverage b h a) hrun

end

/-- Settles O21: neither the tick nor the pass nor any write of a command reads the ring buffer or its mean. -/
theorem averageIsReadOnlyByGetAndCapture : Obligations.AverageIsReadOnlyByGetAndCapture := by
  intro i s t b hd a hnotGet hnotLink h
  show exec i (s.withAverage b hd a) = .next (t.withAverage b hd a)
  cases execForm i with
  | begin =>
    by_cases hrun : s.run = true
    · cases (exec_begin_of_run hrun).symm.trans h
      exact exec_begin_of_run (s := s.withAverage b hd a) hrun
    · cases (exec_begin_of_not_run hrun).symm.trans h
      exact exec_begin_of_not_run (s := s.withAverage b hd a) hrun
  | tick =>
    cases h
    exact congrArg Host.Outcome.next (tick_withAverage b hd a s s.nowUs)
  | sched => exact exec_sched_withAverage b hd a s h
  | get ch sel => exact absurd rfl (hnotGet ch sel)
  | link3 m hi lo => exact absurd rfl (hnotLink m hi lo)
  | writes g _ hexec =>
    cases (hexec s).symm.trans h
    exact hexec (s.withAverage b hd a)

end Sys2Proof.Machine
end

section
/-! PROOFS. GET (42_parameter_control.md R84, R85): the answer is the register that the selector map of 10_state.md R30,
R31 gives, packed words as sums of their fields, and 0 for every other selector (20_memory.md R39). -/

namespace Sys2Proof.Machine

open Sys2Proof.Safety

/-! ## Packed words as sums of their fields -/

theorem append_toNat {n m : Nat} (x : BitVec n) (y : BitVec m) : (x ++ y).toNat = x.toNat * 2 ^ m + y.toNat := by
  rw [BitVec.toNat_append, ← Nat.shiftLeft_add_eq_or_of_lt y.isLt, Nat.shiftLeft_eq]

theorem bit_toNat (b : Bool) : (bit b).toNat = b.toNat := by cases b <;> rfl

/-- A response is the number it holds. -/
theorem eq_asWord {w : U32} {n : Nat} (h : w.toNat = n) : w = asWord n := by
  rw [← h, asWord, BitVec.ofNat_toNat, BitVec.setWidth_eq]

theorem zext16_eq_asWord (v : U16) : zext16 v = asWord v.toNat := eq_asWord (zext16_toNat v)

theorem zext8_eq_asWord (v : Byte) : zext8 v = asWord v.toNat := by
  rw [zext8, asWord, BitVec.ofNat_toNat]

/-- The words of three flags: CHSTAT, DIRTY, RACT (10_state.md R30). -/
theorem flagsWord_eq_asWord (x y z : Bool) :
    (0 : BitVec 29) ++ bit z ++ bit y ++ bit x = asWord (x.toNat + 2 * y.toNat + 4 * z.toNat) := by
  cases x <;> cases y <;> cases z <;> rfl

theorem roleCode_toNat (r : Role) : (roleCode r).toNat = match r with | .free => 0 | .master => 1 | .client => 2 := by
  cases r <;> rfl

theorem linkCode_toNat (l : Link) : (linkCode l).toNat = match l with | .pulse => 0 | .msg => 1 := by
  cases l <;> rfl

theorem rxstCode_toNat (x : RxState) :
    (rxstCode x).toNat = match x with | .idle => 0 | .gotMarker => 1 | .gotHi => 2 := by
  cases x <;> rfl

theorem statusWord_toNat (s : State) :
    (statusWord s).toNat = s.run.toNat + 2 * s.synced.toNat + 4 * (roleCode s.cfg.role).toNat +
      16 * (linkCode s.cfg.link).toNat + 32 * (rxstCode s.rxst).toNat + 128 * s.cfg.schedTicks.toNat := by
  show ((0 : BitVec 24) ++ bit s.cfg.schedTicks ++ rxstCode s.rxst ++ linkCode s.cfg.link ++ roleCode s.cfg.role
    ++ bit s.synced ++ bit s.run : BitVec (24 + 1 + 2 + 1 + 2 + 1 + 1)).toNat = _
  simp only [append_toNat, bit_toNat, BitVec.ofNat_eq_ofNat, BitVec.toNat_zero]
  omega

theorem syncCfgWord_toNat (p : Params) :
    (syncCfgWord p).toNat = p.tolSh.toNat + 2 ^ 4 * p.missMax.toNat + 2 ^ 8 * p.hardMul.toNat +
      2 ^ 16 * p.nudge.toNat + 2 ^ 17 * p.adopt.toNat + 2 ^ 24 * p.marker.toNat := by
  show (p.marker ++ (0 : BitVec 6) ++ bit p.adopt ++ bit p.nudge ++ p.hardMul ++ p.missMax ++ (0 : BitVec 1)
    ++ p.tolSh : BitVec (8 + 6 + 1 + 1 + 8 + 4 + 1 + 3)).toNat = _
  simp only [append_toNat, bit_toNat, BitVec.ofNat_eq_ofNat, BitVec.toNat_zero]
  omega

theorem freqLimWord_toNat (p : Params) :
    (freqLimWord p).toNat = p.freqMin.toNat + 2 ^ 16 * p.freqMax.toNat := by
  show (p.freqMax ++ p.freqMin : BitVec (16 + 16)).toNat = _
  rw [append_toNat]
  omega

/-- The words of one number that fits its field: HEAD, NCH, NBUF (10_state.md R31). -/
theorem fieldWord_toNat {n k v : Nat} (hv : v < 2 ^ k) : ((0 : BitVec n) ++ BitVec.ofNat k v).toNat = v := by
  rw [append_toNat, BitVec.ofNat_eq_ofNat, BitVec.toNat_zero, Nat.zero_mul, Nat.zero_add,
    BitVec.toNat_ofNat, Nat.mod_eq_of_lt hv]

/-! ## What GET reads -/

theorem readRamp_eq_none (r : Ramp) {off : Nat} (h : 5 ≤ off) : readRamp r off = none := by
  unfold readRamp
  repeat rw [if_neg (by omega)]

theorem readChannel_eq_none (p : Params) (k : Nat) (c : Channel) {sel : Nat} (h : ¬ ChannelSelector sel) :
    readChannel p k c sel = none := by
  unfold ChannelSelector at h
  unfold readChannel
  iterate 13 rw [if_neg (by omega)]
  split_ifs
  · rfl
  · exact readRamp_eq_none _ (by omega)
  · exact readRamp_eq_none _ (by omega)
  · exact readRamp_eq_none _ (by omega)

theorem readGlobal_eq_none (s : State) {sel : Nat} (h : ¬ GlobalSelector s.cfg sel) : readGlobal s sel = none := by
  unfold GlobalSelector at h
  unfold readGlobal
  repeat rw [if_neg (by omega)]

theorem readGlobal_buf {s : State} {k : Nat} {x : U32} (hk : k < s.cfg.nbuf) (hx : s.buf[k]? = some x) :
    readGlobal s (0x00C0 + k) = some x := by
  unfold readGlobal
  iterate 15 rw [if_neg (by omega)]
  rw [if_pos (by omega), Nat.add_sub_cancel_left, List.getD_eq_getElem?_getD, hx, Option.getD_some]

/-! ## What GET answers -/

theorem answers_of_regRead {s : State} {ch : Byte} {sel : U16} {v : U32} (h : regRead s ch sel = v) :
    Answers s ch sel v := by
  rw [← h]
  exact exec_get ch sel s

/-- Settles O41. -/
theorem getAnswersOnceAndChangesNothing : Obligations.GetAnswersOnceAndChangesNothing :=
  fun _ ch sel => ⟨decodeCmd_of_encode (i := .get ch sel) rfl, _, answers_of_regRead rfl⟩

/-- A per-channel selector, of a channel below `NCH` (42_parameter_control.md R85). -/
theorem answers_channel {s : State} {ch : Byte} {c : Channel} (hch : ch.toNat < s.cfg.nch)
    (hc : s.chans[ch.toNat]? = some c) {sel : U16} {w v : U32}
    (hread : readChannel s.cfg ch.toNat c sel.toNat = some w) (hw : w = v) : Answers s ch sel v := by
  have hchan : s.chan ch.toNat = c := by rw [State.chan, List.getD_eq_getElem?_getD, hc, Option.getD_some]
  have hgood : ¬ badChannel s.cfg ch = true := fun h => Nat.not_le_of_lt hch (badChannel_eq_true.mp h)
  refine answers_of_regRead ?_
  rw [regRead, if_neg hgood, hchan, hread, Option.some_or, Option.getD_some, hw]

/-- A global selector, read with channel index 0 (42_parameter_control.md R85). -/
theorem answers_global {s : State} {sel : U16} {w v : U32} (hsel : ¬ ChannelSelector sel.toNat)
    (hread : readGlobal s sel.toNat = some w) (hw : w = v) : Answers s 0 sel v := by
  refine answers_of_regRead ?_
  rw [regRead, readChannel_eq_none _ _ _ hsel, ite_self, if_pos rfl, hread, Option.none_or, Option.getD_some, hw]

/-- Settles O44: neither map has the selector, or the index is not one it is read with. -/
theorem undefinedSelectorsAnswerZero : Obligations.UndefinedSelectorsAnswerZero := by
  intro s ch sel hchannel hglobal
  have hper : (if badChannel s.cfg ch = true then none
      else readChannel s.cfg ch.toNat (s.chan ch.toNat) sel.toNat) = none := by
    split
    case isTrue => rfl
    case isFalse hgood =>
      have hch : ch.toNat < s.cfg.nch := Nat.lt_of_not_le fun h => hgood (badChannel_eq_true.mpr h)
      exact readChannel_eq_none _ _ _ fun hsel => hchannel ⟨hsel, hch⟩
  have hall : (if ch = 0 then readGlobal s sel.toNat else none) = none := by
    split
    case isTrue hzero => exact readGlobal_eq_none s fun hsel => hglobal ⟨hsel, hzero⟩
    case isFalse => rfl
  refine answers_of_regRead ?_
  rw [regRead, hper, hall]
  rfl

/-! ## The per-channel selectors -/

section
variable {s : State} {ch : Byte} {c : Channel} (hch : ch.toNat < s.cfg.nch) (hc : s.chans[ch.toNat]? = some c)
include hch hc

/-- The five registers of a ramp record, from selector `base` on (10_state.md R30). -/
theorem answers_ramp {base : U16} {r : Ramp}
    (hread : ∀ off < 5, readChannel s.cfg ch.toNat c (base + BitVec.ofNat 16 off).toNat = readRamp r off) :
    Answers s ch base (asWord r.start.toNat) ∧ Answers s ch (base + 1) (asWord r.target.toNat) ∧
    Answers s ch (base + 2) r.t0 ∧ Answers s ch (base + 3) (asWord r.delay.toNat) ∧
    Answers s ch (base + 4) (asWord r.dur.toNat) := by
  have hstart : readChannel s.cfg ch.toNat c base.toNat = readRamp r 0 := by
    rw [← hread 0 (by decide), BitVec.add_zero]
  exact ⟨answers_channel hch hc hstart (zext16_eq_asWord _),
    answers_channel hch hc (hread 1 (by decide)) (zext16_eq_asWord _),
    answers_channel hch hc (hread 2 (by decide)) rfl,
    answers_channel hch hc (hread 3 (by decide)) (zext16_eq_asWord _),
    answers_channel hch hc (hread 4 (by decide)) (zext16_eq_asWord _)⟩

theorem answers_ramps (x : U16 × Ramp) (hx : x ∈ [(0x0010, c.rampF), (0x0018, c.rampD), (0x0020, c.rampP)]) :
    Answers s ch x.1 (asWord x.2.start.toNat) ∧ Answers s ch (x.1 + 1) (asWord x.2.target.toNat) ∧
    Answers s ch (x.1 + 2) x.2.t0 ∧ Answers s ch (x.1 + 3) (asWord x.2.delay.toNat) ∧
    Answers s ch (x.1 + 4) (asWord x.2.dur.toNat) := by
  simp only [List.mem_cons, List.not_mem_nil, or_false] at hx
  refine answers_ramp hch hc fun off hoff => ?_
  rcases hx with rfl | rfl | rfl
  · interval_cases off <;> rfl
  · interval_cases off <;> rfl
  · interval_cases off <;> rfl

end

/-- Settles O42, selector by selector. -/
theorem channelSelectorsAnswerTheirRegisters : Obligations.ChannelSelectorsAnswerTheirRegisters :=
  fun s ch c _ hch hc =>
    ⟨answers_channel hch hc rfl (zext16_eq_asWord c.freq),
      answers_channel hch hc rfl (zext16_eq_asWord c.duty),
      answers_channel hch hc rfl (zext16_eq_asWord c.phase),
      answers_channel hch hc rfl rfl,
      answers_channel hch hc rfl rfl,
      answers_channel hch hc rfl rfl,
      answers_channel hch hc rfl rfl,
      answers_channel hch hc rfl (flagsWord_eq_asWord c.out c.wraps (isAbs s.cfg ch.toNat)),
      answers_channel hch hc rfl (zext16_eq_asWord c.pendFreq),
      answers_channel hch hc rfl (zext16_eq_asWord c.pendDuty),
      answers_channel hch hc rfl (zext16_eq_asWord c.pendPhase),
      answers_channel hch hc rfl (flagsWord_eq_asWord c.dirtyF c.dirtyD c.dirtyP),
      answers_channel hch hc rfl (flagsWord_eq_asWord c.rampF.act c.rampD.act c.rampP.act),
      answers_ramps hch hc⟩

/-! ## The global selectors -/

/-- An entry of the ring buffer: `NBUF` is at most 64, so its selector does not overflow. -/
theorem answers_buf {s : State} (hs : Inv s) {k : Nat} {x : U32} (hx : s.buf[k]? = some x) :
    Answers s 0 (BitVec.ofNat 16 (0x00C0 + k)) x := by
  have hk : k < s.cfg.nbuf := by
    rw [← hs.nbuf]
    exact (List.getElem?_eq_some_iff.mp hx).1
  have hnbuf := (legal_nbuf hs.legal).2
  have hsel : (BitVec.ofNat 16 (0x00C0 + k)).toNat = 0x00C0 + k := by
    rw [BitVec.toNat_ofNat, Nat.mod_eq_of_lt (by omega)]
  refine answers_global ?_ ?_ rfl
  · rw [hsel]
    unfold ChannelSelector
    omega
  · rw [hsel]
    exact readGlobal_buf hk hx

/-- Settles O43, selector by selector. -/
theorem globalSelectorsAnswerTheirRegisters : Obligations.GlobalSelectorsAnswerTheirRegisters := by
  intro s hs
  have hnbuf := (legal_nbuf hs.legal).2
  have hnch := (legal_nch hs.legal).2
  have hhead := hs.head
  refine ⟨?_, answers_global (by decide) rfl rfl, answers_global (by decide) rfl rfl,
    answers_global (by decide) rfl rfl, answers_global (by decide) rfl rfl, answers_global (by decide) rfl rfl,
    answers_global (by decide) rfl (eq_asWord (fieldWord_toNat (n := 26) (by omega))),
    answers_global (by decide) rfl (zext8_eq_asWord s.rxhi),
    answers_global (by decide) rfl (eq_asWord (fieldWord_toNat (n := 27) (by omega))),
    answers_global (by decide) rfl (eq_asWord (fieldWord_toNat (n := 25) (by omega))),
    answers_global (by decide) rfl rfl,
    answers_global (by decide) rfl (zext16_eq_asWord s.cfg.latComp),
    answers_global (by decide) rfl (eq_asWord (syncCfgWord_toNat s.cfg)),
    answers_global (by decide) rfl (eq_asWord (freqLimWord_toNat s.cfg)),
    answers_global (by decide) rfl (zext16_eq_asWord s.cfg.absMask), fun k x hx => answers_buf hs hx⟩
  have hstatus := statusWord_toNat s
  rw [roleCode_toNat, linkCode_toNat, rxstCode_toNat] at hstatus
  exact answers_global (by decide) rfl (eq_asWord hstatus)

end Sys2Proof.Machine
end

section
/-! PROOFS. Runs of ticks (41_phase_accumulator.md R75): by induction on the time stamps, each tick adds its gap to the
position of an accumulator channel, modulo the period. -/

namespace Sys2Proof.Machine

open Sys2Proof.Safety

/-- One tick within the guard, on one accumulator channel (41_phase_accumulator.md R67, R68). -/
theorem tick_accumulator {s : State} (hs : Inv s) (hrun : s.run = true) {k : Nat} {c : Channel}
    (hc : s.chans[k]? = some c) (habs : s.cfg.absMask.getLsbD k = false)
    (hgap : elapsed s.nowUs s.lastTick ≤ 2 * c.period.toNat) :
    ∃ d, (tick s.nowUs s).chans[k]? = some d ∧ d.period = c.period ∧
      d.pos.toNat = (c.pos.toNat + elapsed s.nowUs s.lastTick) % c.period.toNat := by
  obtain ⟨-, ⟨-, hticked⟩, -⟩ := tick_spec hs hrun
  obtain ⟨d, hd, hframe, hpos, -⟩ := hticked k c hc
  rw [habs, if_neg Bool.false_ne_true, if_neg (Nat.not_lt.mpr hgap)] at hpos
  exact ⟨d, hd, by rw [hframe], hpos⟩

theorem tick_lastTick {s : State} (hs : Inv s) (hrun : s.run = true) : (tick s.nowUs s).lastTick = s.nowUs :=
  congrArg State.lastTick (tick_spec hs hrun).1

/-- Settles O25, by induction on the time stamps. -/
theorem ticksIntegrateTimeExactly : Obligations.TicksIntegrateTimeExactly := by
  intro us
  induction us with
  | nil =>
    intro s k c hs _ hc _ _
    exact ⟨s, c, rfl, hc, (Nat.mod_eq_of_lt (hs.chans c (List.mem_of_getElem? hc)).pos_lt).symm⟩
  | cons u us ih =>
    intro s k c hs hrun hc habs hgaps
    have hstamped : Inv { s with nowUs := u } := { hs with }
    obtain ⟨hgap, hrest⟩ := List.forall_mem_cons.mp hgaps
    obtain ⟨d, hd, hperiod, hpos⟩ := tick_accumulator hstamped hrun hc habs hgap
    have hflags := tick_flags u { s with nowUs := u }
    have hlast : (tick u { s with nowUs := u }).lastTick = u := tick_lastTick hstamped hrun
    obtain ⟨t, c', hticks, hc', hpos'⟩ := ih (tick u { s with nowUs := u }) k d (tick_keeps hstamped u)
      (hflags.run hrun) hd (by rw [hflags.cfg]; exact habs) (by rw [hlast, hperiod]; exact hrest)
    refine ⟨t, c', ⟨_, exec_tick _, hticks⟩, hc', ?_⟩
    rw [hpos', hpos, hperiod, hlast, Nat.mod_add_mod, gaps, List.sum_cons, Nat.add_assoc]

end Sys2Proof.Machine
end

section
/-! PROOFS. The duty ramp over scheduler passes (44_sequencing.md R108, R109, R111, R113, R114): what one pass does to the
duty and its ramp, before and after the end of the ramp, and runs of passes before it. -/

namespace Sys2Proof.Machine

open Sys2Proof.Safety

/-! ## The value of a ramp, before and after its end -/

/-- A ramp is done once its delay and its duration are over (44_sequencing.md R114). -/
theorem rampValue_of_over {now : U32} {r : Ramp} (h : r.delay.toNat + r.dur.toNat ≤ elapsed now r.t0) :
    rampValue now r = (r.target, true) := by
  unfold rampValue
  rw [sub32_toNat]
  dsimp only
  rw [if_neg (by omega), if_pos (by omega)]

theorem rampValue_of_not_over {now : U32} {r : Ramp} (h : elapsed now r.t0 < r.delay.toNat + r.dur.toNat) :
    ∃ v, rampValue now r = (v, false) := by
  unfold rampValue
  rw [sub32_toNat]
  dsimp only
  by_cases hwait : elapsed now r.t0 < r.delay.toNat
  · exact ⟨_, if_pos hwait⟩
  · exact ⟨_, (if_neg hwait).trans (if_neg (by omega))⟩

/-- A value in range is stored as it is. -/
theorem clampDuty_of_le {v : U16} (h : v.toNat ≤ 10000) : clampDuty v = v :=
  BitVec.eq_of_toNat_eq ((clampDuty_toNat v).trans (min_eq_left h))

/-! ## The ramps of one channel -/

/-- Of the three parts of `rampStep`, the duty part alone touches the duty and its ramp (44_sequencing.md R114). -/
theorem rampStepChan_duty (now : U32) (c : Channel) :
    ∃ d, d.duty = c.duty ∧ d.rampD = c.rampD ∧ (rampStepChan now c).duty = (rampStepParam now .duty d).duty ∧
      (rampStepChan now c).rampD = (rampStepParam now .duty d).rampD := by
  obtain ⟨hduty, hramp⟩ := rampStepParam_other_duty now (p := .freq) (by decide) c
  obtain ⟨hduty', hramp'⟩ := rampStepParam_other_duty now (p := .phase) (by decide)
    (rampStepParam now .duty (rampStepParam now .freq c))
  exact ⟨_, hduty, hramp, hduty', hramp'⟩

section
variable {now : U32} {c : Channel}

theorem rampStepChan_of_idle (hact : c.rampD.act = false) :
    (rampStepChan now c).duty = c.duty ∧ (rampStepChan now c).rampD = c.rampD := by
  obtain ⟨d, hduty, hramp, hduty', hramp'⟩ := rampStepChan_duty now c
  have hidle : rampStepParam now .duty d = d :=
    if_neg (by rw [Channel.ramp, hramp, hact]; exact Bool.false_ne_true)
  rw [hduty', hramp', hidle]
  exact ⟨hduty, hramp⟩

theorem rampStepChan_of_not_over (hact : c.rampD.act = true)
    (h : elapsed now c.rampD.t0 < c.rampD.delay.toNat + c.rampD.dur.toNat) :
    (rampStepChan now c).rampD = c.rampD := by
  obtain ⟨d, -, hramp, -, hramp'⟩ := rampStepChan_duty now c
  rw [← hramp] at hact h
  obtain ⟨v, hv⟩ := rampValue_of_not_over h
  have hset : rampStepParam now .duty d = setDuty v d := by
    rw [rampStepParam, if_pos (show (d.ramp .duty).act = true from hact)]
    dsimp only
    rw [show rampValue now (d.ramp .duty) = _ from hv]
    rfl
  rw [hramp', ← hramp, hset]
  rfl

theorem rampStepChan_of_over (hact : c.rampD.act = true) (htarget : c.rampD.target.toNat ≤ 10000)
    (h : c.rampD.delay.toNat + c.rampD.dur.toNat ≤ elapsed now c.rampD.t0) :
    (rampStepChan now c).duty = c.rampD.target ∧ (rampStepChan now c).rampD = { c.rampD with act := false } := by
  obtain ⟨d, -, hramp, hduty', hramp'⟩ := rampStepChan_duty now c
  rw [← hramp] at hact h htarget ⊢
  have hdone : rampStepParam now .duty d = clearRact .duty (setDuty d.rampD.target d) := by
    rw [rampStepParam, if_pos (show (d.ramp .duty).act = true from hact)]
    dsimp only
    rw [show rampValue now (d.ramp .duty) = _ from rampValue_of_over h]
    rfl
  rw [hduty', hramp', hdone]
  exact ⟨clampDuty_of_le htarget, rfl⟩

end

/-! ## One pass -/

/-- A tick moves the position and the latch of a channel, nothing else (41_phase_accumulator.md R66). -/
theorem tick_getElem? {s : State} {k : Nat} {c : Channel} (hc : s.chans[k]? = some c) (now : U32) :
    ∃ pos out, (tick now s).chans[k]? = some { c with pos := pos, out := out } := by
  have hticked : (tickChannels now s).chans[k]? =
      some (tickChan s.cfg now (sub32 now s.lastTick) s.refTime (0 + k) c) := by
    rw [tickChannels_chans, mapFrom_getElem?, hc, Option.map_some]
  by_cases hrun : s.run = true
  · by_cases hmaster : s.cfg.role = .master
    · rw [tick_of_master hrun hmaster, emitCheck_chans]
      exact ⟨_, _, hticked⟩
    · rw [tick_of_not_master hrun hmaster]
      exact ⟨_, _, hticked⟩
  · rw [tick_of_not_run (Bool.eq_false_of_not_eq_true hrun)]
    exact ⟨c.pos, c.out, hc⟩

/-- What a pass leaves for the ramps of a channel: the duty that is pending, or the old one, and the old ramp
(44_sequencing.md R113). -/
theorem sched_getElem? {s : State} (hrun : s.run = true) {k : Nat} {c : Channel} (hc : s.chans[k]? = some c) :
    ∃ t d, exec .sched s = .next t ∧ t.chans[k]? = some (rampStepChan s.nowMs d) ∧
      d.duty = (applyPendingChan c).duty ∧ d.rampD = c.rampD := by
  have happlied : (applyPending s).chans[k]? = some (applyPendingChan c) := by
    rw [applyPending_chans, mapFrom_getElem?, hc, Option.map_some]
  obtain ⟨pos, out, hmiddle⟩ : ∃ pos out, (tickIfScheduled (applyPending s)).chans[k]? =
      some { applyPendingChan c with pos := pos, out := out } := by
    unfold tickIfScheduled
    split
    · exact tick_getElem? happlied _
    · exact ⟨_, _, happlied⟩
  obtain ⟨-, hramp, -⟩ := applyPendingChan_ramps c
  refine ⟨_, { applyPendingChan c with pos := pos, out := out }, exec_sched_of_run hrun, ?_, rfl, hramp⟩
  rw [rampStep_chans, mapFrom_getElem?, hmiddle, Option.map_some]

section
variable {s : State} (hrun : s.run = true) {k : Nat} {c : Channel} (hc : s.chans[k]? = some c)
include hrun hc

/-- A pass before the end of an active duty ramp. -/
theorem sched_of_not_over (hact : c.rampD.act = true)
    (h : elapsed s.nowMs c.rampD.t0 < c.rampD.delay.toNat + c.rampD.dur.toNat) :
    ∃ t c', exec .sched s = .next t ∧ t.chans[k]? = some c' ∧ c'.rampD = c.rampD := by
  obtain ⟨t, d, ht, hd, -, hramp⟩ := sched_getElem? hrun hc
  rw [← hramp] at hact h ⊢
  exact ⟨t, _, ht, hd, rampStepChan_of_not_over hact h⟩

/-- A pass at or after the end of an active duty ramp. -/
theorem sched_of_over (hact : c.rampD.act = true) (htarget : c.rampD.target.toNat ≤ 10000)
    (h : c.rampD.delay.toNat + c.rampD.dur.toNat ≤ elapsed s.nowMs c.rampD.t0) :
    ∃ t c', exec .sched s = .next t ∧ t.chans[k]? = some c' ∧
      c'.duty = c.rampD.target ∧ c'.rampD = { c.rampD with act := false } := by
  obtain ⟨t, d, ht, hd, -, hramp⟩ := sched_getElem? hrun hc
  rw [← hramp] at hact h htarget ⊢
  exact ⟨t, _, ht, hd, rampStepChan_of_over hact htarget h⟩

/-- A pass where no duty is pending and no duty ramp runs. -/
theorem sched_of_idle (hact : c.rampD.act = false) (hclean : c.dirtyD = false) :
    ∃ t c', exec .sched s = .next t ∧ t.chans[k]? = some c' ∧ c'.duty = c.duty ∧ c'.rampD.act = false := by
  obtain ⟨t, d, ht, hd, hduty, hramp⟩ := sched_getElem? hrun hc
  obtain ⟨hduty', hramp'⟩ := rampStepChan_of_idle (now := s.nowMs) (show d.rampD.act = false by rw [hramp, hact])
  exact ⟨t, _, ht, hd, by rw [hduty', hduty, applyPendingChan_duty hclean], by rw [hramp', hramp, hact]⟩

end

/-! ## Runs of passes -/

/-- The invariants do not speak of the stamps. -/
theorem inv_with_stamps {s : State} (hs : Inv s) (us ms : U32) : Inv { s with nowUs := us, nowMs := ms } :=
  inv_with_queue hs s.waiting s.env us ms

/-- Any passes before the end of an active duty ramp leave its record as it is. -/
theorem passesRun_of_not_over (before : List (U32 × U32)) {s : State} (hs : Inv s) (hrun : s.run = true) {k : Nat}
    {c : Channel} (hc : s.chans[k]? = some c) (hact : c.rampD.act = true)
    (h : ∀ x ∈ before, elapsed x.2 c.rampD.t0 < c.rampD.delay.toNat + c.rampD.dur.toNat) :
    ∃ t c', PassesRun before s t ∧ Inv t ∧ t.run = true ∧ t.chans[k]? = some c' ∧ c'.rampD = c.rampD := by
  induction before generalizing s c with
  | nil => exact ⟨s, c, rfl, hs, hrun, hc, rfl⟩
  | cons x xs ih =>
    obtain ⟨hx, hxs⟩ := List.forall_mem_cons.mp h
    have hstamped := inv_with_stamps hs x.1 x.2
    obtain ⟨m, d, hm, hd, hramp⟩ := sched_of_not_over (s := { s with nowUs := x.1, nowMs := x.2 }) hrun hc hact hx
    obtain ⟨t, c', hpasses, ht, hrun', hc', hramp'⟩ := ih (exec_keeps hstamped hm) ((exec_flags hm).run hrun) hd
      (by rw [hramp]; exact hact) (by rw [hramp]; exact hxs)
    exact ⟨t, c', ⟨m, hm, hpasses⟩, ht, hrun', hc', hramp'.trans hramp⟩

/-! ## RAMP_DUTY and the passes after it -/

/-- RAMP_DUTY on a channel below `NCH` (44_sequencing.md R111). -/
theorem exec_rampDuty_getElem? {s : State} {ch : Byte} (hch : ch.toNat < s.cfg.nch) {c : Channel}
    (hc : s.chans[ch.toNat]? = some c) (v dur dly : U16) :
    ∃ a, exec (.rampDuty ch v dur dly) s = .next a ∧
      a.chans[ch.toNat]? = some (startRamp .duty (clampDuty v) dur dly s.nowMs c) := by
  refine ⟨_, (exec_rampDuty ch v dur dly s).trans (if_neg (Nat.not_le_of_lt hch)), ?_⟩
  rw [State.modifyChan_chans, List.getElem?_modify_eq, hc, Option.map_eq_map, Option.map_some]

theorem startRamp_at_once {dur dly : U16} (h : dly.toNat + dur.toNat = 0) (p : Parameter) (tgt : U16) (now : U32)
    (c : Channel) : startRamp p tgt dur dly now c = clearRact p (setParam p tgt c) :=
  if_pos ⟨BitVec.eq_of_toNat_eq (Nat.eq_zero_of_add_eq_zero_left h),
    BitVec.eq_of_toNat_eq (Nat.eq_zero_of_add_eq_zero_right h)⟩

theorem startRamp_record {dur dly : U16} (h : dly.toNat + dur.toNat ≠ 0) (p : Parameter) (tgt : U16) (now : U32)
    (c : Channel) : startRamp p tgt dur dly now c = c.setRamp ⟨true, c.value p, tgt, now, dly, dur⟩ p :=
  if_neg fun ⟨hdur, hdly⟩ => h (by rw [hdur, hdly]; rfl)

/-- Settles O40. The second part goes by whether the target is set at once; if it is not, the passes before the end leave
the record of RAMP_DUTY, and the first part describes the one at or after it. -/
theorem dutyRampReachesItsTargetAndEnds : Obligations.DutyRampReachesItsTargetAndEnds := by
  refine ⟨fun s k c hs hrun hc hact => ?_, fun s ch v dur dly before us ms hs hrun hch hclean hbefore hover => ?_⟩
  · split
    case isTrue h => exact sched_of_not_over hrun hc hact h
    case isFalse h =>
      exact sched_of_over hrun hc hact (hs.chans c (List.mem_of_getElem? hc)).targetDuty (Nat.le_of_not_lt h)
  · obtain ⟨c, hc⟩ : ∃ c, s.chans[ch.toNat]? = some c := ⟨_, List.getElem?_eq_getElem (by rwa [hs.nchans])⟩
    obtain ⟨a, ha, hchan⟩ := exec_rampDuty_getElem? hch hc v dur dly
    have hainv := exec_keeps hs ha
    have harun := (exec_flags ha).run hrun
    by_cases hnow : dly.toNat + dur.toNat = 0
    · rw [startRamp_at_once hnow] at hchan
      have hnil : before = [] := List.eq_nil_iff_forall_not_mem.mpr fun x hx => by
        have := hbefore x hx
        omega
      obtain ⟨t, c', ht, hc', hduty, hact⟩ :=
        sched_of_idle (s := { a with nowUs := us, nowMs := ms }) harun hchan rfl
          (show c.dirtyD = false from hclean hnow c hc)
      subst hnil
      refine ⟨a, a, t, _, c', ha, rfl, hchan, ⟨fun h => absurd h Bool.false_ne_true, fun h => by omega⟩, ht, hc', ?_, hact⟩
      rw [hduty]
      exact (congrArg BitVec.toNat (clampDuty_of_le (clampDuty_le v))).trans (clampDuty_toNat v)
    · rw [startRamp_record hnow] at hchan
      obtain ⟨b, cb, hpasses, hbinv, hbrun, hcb, hramp⟩ :=
        passesRun_of_not_over before hainv harun hchan rfl hbefore
      obtain ⟨t, c', ht, hc', hduty, hramp'⟩ := sched_of_over (s := { b with nowUs := us, nowMs := ms }) hbrun hcb
        (by rw [hramp]; rfl) (by rw [hramp]; exact clampDuty_le v) (by rw [hramp]; exact hover)
      refine ⟨a, b, t, cb, c', ha, hpasses, hcb, ⟨fun _ => Nat.pos_of_ne_zero hnow, fun _ => by rw [hramp]; rfl⟩, ht,
        hc', ?_, by rw [hramp']⟩
      rw [hduty, hramp]
      exact clampDuty_toNat v

end Sys2Proof.Machine
end

section
/-! PROOFS. Link packets and runs of reference events on a client (30_encoding.md R55; 43_synchronization.md R96, R97,
R100, R101): a packet as its three bytes, and the filter on a constant interval, by induction on the edges with the ring
buffer read from its oldest entry. -/

namespace Sys2Proof.Machine

open Sys2Proof.Safety

/-! ## A packet -/

theorem serveEvent_syncByte (b : Byte) (s : State) : serveEvent (.syncByte b) s = .next (serveSyncByte b s) := rfl

/-- Settles O47. -/
theorem linkPacketIsThreeBytes : Obligations.LinkPacketIsThreeBytes :=
  fun s m h l => ⟨_, _, _, serveEvent_syncByte m s, serveEvent_syncByte h _, serveEvent_syncByte l _, exec_link3 m h l s⟩

/-- The deframer over a whole packet, from IDLE (43_synchronization.md R100). -/
theorem exec_link3_in_step {s : State} (hlive : s.run = true ∧ s.cfg.role = .client ∧ s.cfg.link = .msg)
    (hidle : s.rxst = .idle) (h l : Byte) :
    exec (.link3 s.cfg.marker h l) s = .next (adopt (h ++ l) (capture s.nowUs { s with rxhi := h })) := by
  have hmarker : serveSyncByte s.cfg.marker s = { s with rxst := .gotMarker } :=
    Host.Outcome.next.inj ((serveEvent_syncByte_idle hlive s.cfg.marker hidle).trans (congrArg _ (if_pos rfl)))
  have hhigh : serveSyncByte h { s with rxst := .gotMarker } = { s with rxhi := h, rxst := .gotHi } :=
    Host.Outcome.next.inj (serveEvent_syncByte_gotMarker (s := { s with rxst := .gotMarker }) hlive h rfl)
  have hlow : serveSyncByte l { s with rxhi := h, rxst := .gotHi } =
      adopt (h ++ l) (capture s.nowUs { s with rxhi := h, rxst := .idle }) :=
    Host.Outcome.next.inj (serveEvent_syncByte_gotHi (s := { s with rxhi := h, rxst := .gotHi }) hlive l rfl)
  rw [exec_link3, hmarker, hhigh, hlow, ← hidle]

/-- Settles O48: the third byte captures, and adopts in the captured state, which still meets the invariants. -/
theorem linkPacketInStepCapturesAndAdopts : Obligations.LinkPacketInStepCapturesAndAdopts := by
  intro s h l hs hrun hrole hlink hidle
  have hhigh : Inv { s with rxhi := h } := inv_with_deframer hs s.rxst h
  exact ⟨_, _, h ++ l, freqOfBytes_toNat h l, capture_spec hhigh s.nowUs, adopt_spec (capture_keeps hhigh s.nowUs) _,
    exec_link3_in_step ⟨hrun, hrole, hlink⟩ hidle h l⟩

/-! ## The filter on a constant interval -/

/-- The state of a live pulse client that started at `s`, after `j` edges whose samples were all `v`: these stand at the
young end of the ring buffer, behind what is left of the old entries. -/
structure AfterEdges (s : State) (v : U32) (j : Nat) (t : State) : Prop where
  inv : Inv t
  cfg : t.cfg = s.cfg
  run : t.run = true
  synced : t.synced = true
  ring : t.buf.rotate t.head = (s.buf.rotate s.head).drop j ++ List.replicate j v
  head : t.head = (s.head + j) % s.cfg.nbuf

theorem afterEdges_zero {s : State} (hs : Inv s) (hrun : s.run = true) (hsynced : s.synced = true) (v : U32) :
    AfterEdges s v 0 s where
  inv := hs
  cfg := rfl
  run := hrun
  synced := hsynced
  ring := by simp
  head := (Nat.mod_eq_of_lt hs.head).symm

/-- The mean of the ring buffer does not depend on where it is read from. -/
theorem AfterEdges.avg {s t : State} {v : U32} {j : Nat} (h : AfterEdges s v j t) :
    t.avg.toNat = averageAfter s v j := by
  have hsum : (t.buf.map BitVec.toNat).sum = ((t.buf.rotate t.head).map BitVec.toNat).sum :=
    (((List.rotate_perm t.buf t.head).map BitVec.toNat).sum_eq).symm
  rw [h.inv.avg, hsum, h.ring, h.cfg, averageAfter, List.map_append, List.sum_append, List.map_replicate,
    List.sum_replicate, smul_eq_mul, Nat.add_comm]

/-- An edge one interval after the last one whose interval fits no multiple (43_synchronization.md R96, R97): it is
taken as one interval, and its sample pushes out the oldest entry. -/
theorem AfterEdges.edge {s t : State} {v u : U32} {j : Nat} (h : AfterEdges s v j t) (hrole : s.cfg.role = .client)
    (hlink : s.cfg.link = .pulse) (hhard : v.toNat < s.cfg.hardMul.toNat * s.cfg.syncIvl.toNat)
    (hlen : s.buf.length = s.cfg.nbuf) (hj : j < s.cfg.nbuf) (hgap : elapsed u t.lastEvt = v.toNat)
    (hfit : ∀ k, 2 ≤ k → k ≤ s.cfg.missMax.toNat → ¬ Fits t v.toNat k) :
    ∃ m, serveEvent .syncEdge { t with nowUs := u } = .next m ∧ AfterEdges s v (j + 1) m ∧ m.lastEvt = u := by
  have hstamped : Inv { t with nowUs := u } := { h.inv with }
  have hlive : t.run = true ∧ t.cfg.role = .client ∧ t.cfg.link = .pulse :=
    ⟨h.run, by rw [h.cfg, hrole], by rw [h.cfg, hlink]⟩
  have hordinary : ¬ (t.synced = false ∨ t.cfg.hardMul.toNat * t.cfg.syncIvl.toNat ≤ v.toNat) := by
    rw [h.synced, h.cfg]
    simpa using hhard
  have hcaptured := capture_spec hstamped u
  have hkept := capture_keeps hstamped u
  refine ⟨_, serveEvent_syncEdge_of_live (s := { t with nowUs := u }) hlive, ?_⟩
  change AfterEdges s v (j + 1) (capture u { t with nowUs := u }) ∧ (capture u { t with nowUs := u }).lastEvt = u
  generalize capture u { t with nowUs := u } = m at hcaptured hkept ⊢
  unfold Captured at hcaptured
  dsimp only at hcaptured
  rw [hgap, if_neg hordinary] at hcaptured
  obtain ⟨n, hmultiple, sample, hsample, hframe, -, -, -⟩ := hcaptured
  have hn : n = 1 := by
    rcases hmultiple with ⟨hone, -⟩ | ⟨htwo, hmax, hfits, -⟩
    · exact hone
    · exact absurd hfits (hfit n htwo (by rw [← h.cfg]; exact hmax))
  have hv : sample = v := BitVec.eq_of_toNat_eq (by rw [hsample, hn, Nat.div_one])
  have hring : m.buf.rotate m.head = (t.buf.rotate t.head).tail ++ [v] := by
    rw [hframe, hv]
    exact insertSample_rotate h.inv.nbuf h.inv.head v
  have hold : (s.buf.rotate s.head).drop j ≠ [] := by
    rw [Ne, List.drop_eq_nil_iff, List.length_rotate, hlen]
    omega
  refine ⟨?_, by rw [hframe]⟩
  exact
    { inv := hkept
      cfg := by rw [hframe, h.cfg]
      run := by rw [hframe, h.run]
      synced := by rw [hframe]
      ring := by
        rw [hring, h.ring, List.tail_append_of_ne_nil hold, List.tail_drop, List.append_assoc, ← List.replicate_succ']
      head := by
        rw [hframe]
        show (t.head + 1) % t.cfg.nbuf = _
        rw [h.head, h.cfg, Nat.mod_add_mod, Nat.add_assoc] }

/-- Once every old entry is gone, the ring buffer holds the one interval. -/
theorem AfterEdges.all {s t : State} {v : U32} (h : AfterEdges s v s.cfg.nbuf t) (hs : Inv s) :
    (∀ x ∈ t.buf, x = v) ∧ t.avg = v ∧ t.head = s.head := by
  have hgone : (s.buf.rotate s.head).drop s.cfg.nbuf = [] := by
    rw [List.drop_eq_nil_iff, List.length_rotate, hs.nbuf]
  have hring := h.ring
  rw [hgone, List.nil_append] at hring
  refine ⟨fun x hx => ?_, BitVec.eq_of_toNat_eq ?_, ?_⟩
  · rw [← List.mem_rotate (n := t.head), hring] at hx
    exact List.eq_of_mem_replicate hx
  · rw [h.avg, averageAfter, hgone]
    exact Nat.mul_div_cancel_left _ (Nat.zero_lt_of_lt hs.head)
  · rw [h.head, Nat.add_mod_right, Nat.mod_eq_of_lt hs.head]

/-- Any number of such edges, by induction on those that are still to come. -/
theorem AfterEdges.edgesRun {s : State} {v : U32} (hs : Inv s) (hrole : s.cfg.role = .client)
    (hlink : s.cfg.link = .pulse) (hhard : v.toNat < s.cfg.hardMul.toNat * s.cfg.syncIvl.toNat)
    (hfar : ∀ j k, j < s.cfg.nbuf → 2 ≤ k → k ≤ s.cfg.missMax.toNat →
      ((averageAfter s v j / 2 ^ s.cfg.tolSh.toNat : Nat) : Int) < |(v.toNat : Int) - k * averageAfter s v j|)
    (us : List U32) {j : Nat} {t : State} (h : AfterEdges s v j t) (hj : j + us.length ≤ s.cfg.nbuf)
    (hgaps : ∀ g ∈ gaps t.lastEvt us, g = v.toNat) :
    ∃ t', EdgesRun us t t' ∧ AfterEdges s v (j + us.length) t' := by
  induction us generalizing j t with
  | nil => exact ⟨t, rfl, h⟩
  | cons u us ih =>
    rw [List.length_cons] at hj ⊢
    obtain ⟨hgap, hrest⟩ := List.forall_mem_cons.mp hgaps
    have hfit (k : Nat) (htwo : 2 ≤ k) (hmax : k ≤ s.cfg.missMax.toNat) : ¬ Fits t v.toNat k := by
      unfold Fits
      rw [h.avg, h.cfg]
      exact Int.not_le.mpr (hfar j k (by omega) htwo hmax)
    obtain ⟨m, hm, hafter, hlast⟩ := h.edge hrole hlink hhard hs.nbuf (by omega) hgap hfit
    obtain ⟨t', hedges, h'⟩ := ih hafter (by omega) (by rwa [hlast])
    exact ⟨t', ⟨m, hm, hedges⟩, by rwa [Nat.add_right_comm] at h'⟩

/-- Settles O49: `NBUF` edges, after which no old entry is left. -/
theorem filterConvergesToAConstantInterval : Obligations.FilterConvergesToAConstantInterval := by
  intro us s v hs hrun hrole hlink hsynced hhard hlength hgaps hfar
  obtain ⟨t, hedges, h⟩ := (afterEdges_zero hs hrun hsynced v).edgesRun hs hrole hlink hhard hfar us
    (by rw [Nat.zero_add, hlength]) hgaps
  rw [Nat.zero_add, hlength] at h
  exact ⟨t, hedges, h.all hs⟩

end Sys2Proof.Machine
end
